-- ==== Sys2Proof/Word.lean ====
section
/-! DEFINITION. The widths of spec/00_scope.md rule R6 as bit-vector types. -/

namespace Sys2Proof

/-- `DATA_W`, `SEL_W`: an 8-bit byte (00 R6). -/
abbrev Byte := BitVec 8

/-- `ADDR_W`, `RD_OFF_W`: a 16-bit bus address or surface offset (00 R6, 10 R34, R35). -/
abbrev Addr := BitVec 16

/-- A 32-bit command word (30 R60). -/
abbrev Word := BitVec 32

/-- `ROM_ADDR_W`: the 23-bit width of `chr_base` (00 R6, 10 R27). -/
abbrev RomAddr := BitVec 23

end Sys2Proof
end

