-- ==== Sys2Proof/Config.lean ====
section
/-! DEFINITION. The named parameters of spec/00_scope.md rule R6 that an implementation chooses.
Their defaults stand in Sys2Proof/Machine/Params.lean. -/

namespace Sys2Proof

/-- `NPOT_POLICY`: what INIT does with a graphics-bank count that is no power of two
(00 R6, 40 R107, 92 D15). -/
inductive NpotPolicy where
  /-- INIT returns `UnsupportedConfiguration` (NonPowerOfTwo). -/
  | reject
  /-- INIT accepts the image, and WRITE masks with `G - 1`. -/
  | mask
  deriving DecidableEq, Repr

/-- The parameters the model takes as an argument (00 R6): the header offsets of 92 D8, which
lie in the 16-byte header, and the OPEN parameters of 92 D9, D10, D11, D15 and D20. -/
structure Config where
  /-- `HDR_PRG_COUNT_OFF` -/
  hdrPrgCountOff : Fin 16
  /-- `HDR_CHR_COUNT_OFF` -/
  hdrChrCountOff : Fin 16
  /-- `HDR_FLAGS6_OFF` -/
  hdrFlags6Off : Fin 16
  /-- `HDR_FLAGS7_OFF` -/
  hdrFlags7Off : Fin 16
  /-- `MAPPER_ID_USES_FLAGS7` -/
  mapperIdUsesFlags7 : Bool
  /-- `CNROM_MAPPER_ID` -/
  cnromMapperId : Byte
  /-- `CHECK_MAGIC` -/
  checkMagic : Bool
  /-- `NPOT_POLICY` -/
  npotPolicy : NpotPolicy
  /-- `HAS_DIRTY` -/
  hasDirty : Bool
  deriving DecidableEq, Repr

end Sys2Proof
end

