-- ==== Sys2Proof/Machine/Params.lean ====
section
/-! DEFINITION. The fixed values and the defaults of spec/00_scope.md rule R6. -/

namespace Sys2Proof.Machine

/-- `HEADER_SIZE` in bytes. -/
def headerSize : Nat := 16

/-- `PRG_BANK_SIZE` in bytes. -/
def prgBankSize : Nat := 16384

/-- `CHR_BANK_SIZE` in bytes. -/
def chrBankSize : Nat := 8192

/-- `SURFACE_SIZE` in bytes. -/
def surfaceSize : Nat := 8192

/-- `TRIG_LO`, inclusive. -/
def trigLo : Nat := 0x8000

/-- `TRIG_HI`, exclusive. -/
def trigHi : Nat := 0x10000

/-- The four magic bytes of the image format (30 R75, R77). -/
def magic : List Byte := [0x4E#8, 0x45#8, 0x53#8, 0x1A#8]

/-- The default of every parameter (00 R6; 92 D8, D9, D10, D11, D15, D20). -/
def defaultConfig : Config where
  hdrPrgCountOff := 4
  hdrChrCountOff := 5
  hdrFlags6Off := 6
  hdrFlags7Off := 7
  mapperIdUsesFlags7 := true
  cnromMapperId := 3#8
  checkMagic := false
  npotPolicy := .reject
  hasDirty := true

end Sys2Proof.Machine
end

