-- ==== Sys2Proof/Syntax.lean ====
section
/-! DEFINITION. The five commands of spec/opcode_table.json and the three ports that issue them
(spec/30_encoding.md rule R62, spec/60_exceptions.md rule R195). -/

namespace Sys2Proof

/-- The three agents' ports (60 R195, R198). -/
inductive Port where
  | host
  | cpu
  | display
  deriving DecidableEq, Repr

/-- A decoded command, one constructor per row of the opcode table. INIT's image is not part of
the word: it stands on the host's image channel (30 R69). -/
inductive Instr where
  /-- RESET (40 R113) -/
  | reset
  /-- INIT (40 R100) -/
  | init
  /-- WRITE of `data` at the bus address `address` (41 R120) -/
  | write (address : Addr) (data : Byte)
  /-- READ at the surface offset `off` (42 R150) -/
  | read (off : Addr)
  /-- DIRTYQ (42 R156) -/
  | dirtyq
  deriving DecidableEq, Repr

end Sys2Proof
end

