-- ==== Sys2Proof/WellFormed.lean ====
section
/-! DEFINITION. Which commands exist. Every operand value is legal (spec/20_memory.md rule R43);
the one command that may be absent is DIRTYQ, which exists only when `HAS_DIRTY`
(spec/30_encoding.md rule R65, spec/42_surface_read.md rule R156). -/

namespace Sys2Proof

/-- The command exists under the parameter `HAS_DIRTY` (30 R65). -/
def Instr.wf (hasDirty : Bool) : Instr → Bool
  | .reset => true
  | .init => true
  | .write _ _ => true
  | .read _ => true
  | .dirtyq => hasDirty

end Sys2Proof
end

