-- ==== Sys2Proof/Decode.lean ====
section
/-! DEFINITION. The command word, its total decoder and its encoder
(spec/30_encoding.md rules R60 to R71). -/

namespace Sys2Proof

/-- Why a word decodes to ILLEGAL (60 R185). -/
inductive IllegalReason where
  /-- `OP` in 0x5 to 0xF (30 R63) -/
  | reservedOpcode
  /-- a bit is set that the opcode does not use (30 R64) -/
  | unusedBitSet
  /-- DIRTYQ without `HAS_DIRTY` (30 R65) -/
  | featureAbsent
  deriving DecidableEq, Repr

/-- Bits 31:28 (30 R61). -/
def opField (w : Word) : BitVec 4 := w.extractLsb' 28 4

/-- Bits 27:24 (30 R61). -/
def rsvField (w : Word) : BitVec 4 := w.extractLsb' 24 4

/-- Bits 23:8 (30 R61, R66). -/
def a16Field (w : Word) : Addr := w.extractLsb' 8 16

/-- Bits 7:0 (30 R61, R66). -/
def d8Field (w : Word) : Byte := w.extractLsb' 0 8

/-- Bits 27:0 are all zero (30 R64). -/
def operandBitsZero (w : Word) : Bool :=
  rsvField w == 0#4 && a16Field w == 0#16 && d8Field w == 0#8

/-- `decode(w)` of 30 R70, total; it names the reason where it answers ILLEGAL. -/
def decode (hasDirty : Bool) (w : Word) : Except IllegalReason Instr :=
  if opField w = 0x0#4 then
    if operandBitsZero w then .ok .reset else .error .unusedBitSet
  else if opField w = 0x1#4 then
    if operandBitsZero w then .ok .init else .error .unusedBitSet
  else if opField w = 0x2#4 then
    if rsvField w == 0#4 then .ok (.write (a16Field w) (d8Field w)) else .error .unusedBitSet
  else if opField w = 0x3#4 then
    if rsvField w == 0#4 && d8Field w == 0#8 then .ok (.read (a16Field w))
    else .error .unusedBitSet
  else if opField w = 0x4#4 then
    if operandBitsZero w then
      if hasDirty then .ok .dirtyq else .error .featureAbsent
    else .error .unusedBitSet
  else .error .reservedOpcode

/-- The `OP` value of a command (30 R62). -/
def Instr.opcode : Instr → BitVec 4
  | .reset => 0x0#4
  | .init => 0x1#4
  | .write _ _ => 0x2#4
  | .read _ => 0x3#4
  | .dirtyq => 0x4#4

/-- The `A16` field of a command (30 R61). -/
def Instr.a16 : Instr → Addr
  | .reset => 0#16
  | .init => 0#16
  | .write a _ => a
  | .read o => o
  | .dirtyq => 0#16

/-- The `D8` field of a command (30 R61). -/
def Instr.d8 : Instr → Byte
  | .reset => 0#8
  | .init => 0#8
  | .write _ d => d
  | .read _ => 0#8
  | .dirtyq => 0#8

/-- The port that may issue the command (60 R195, 30 R62). -/
def Instr.port : Instr → Port
  | .reset => .host
  | .init => .host
  | .write _ _ => .cpu
  | .read _ => .display
  | .dirtyq => .display

/-- The command word `OP << 28 | A16 << 8 | D8`, with `RSV = 0` (30 R61; 41 R120, 42 R150). -/
def packWord (op : BitVec 4) (a : Addr) (d : Byte) : Word :=
  (op.setWidth 32 <<< 28) ||| (a.setWidth 32 <<< 8) ||| d.setWidth 32

/-- The word of a command (30 R61, R62). -/
def encode (i : Instr) : Word := packWord i.opcode i.a16 i.d8

/-- One row of spec/opcode_table.json: a word belongs to the row when its bits under `mask`
are those of `value`. -/
structure OpcodeRow where
  mnemonic : String
  value : Word
  mask : Word
  deriving DecidableEq, Repr

/-- spec/opcode_table.json, row by row. -/
def opcodeTable : List OpcodeRow :=
  [ ⟨"RESET", 0x00000000#32, 0xFFFFFFFF#32⟩,
    ⟨"INIT", 0x10000000#32, 0xFFFFFFFF#32⟩,
    ⟨"WRITE", 0x20000000#32, 0xFF000000#32⟩,
    ⟨"READ", 0x30000000#32, 0xFF0000FF#32⟩,
    ⟨"DIRTYQ", 0x40000000#32, 0xFFFFFFFF#32⟩ ]

/-- The word belongs to the row. -/
def OpcodeRow.covers (r : OpcodeRow) (w : Word) : Bool := w &&& r.mask == r.value

/-- A command's mnemonic in spec/opcode_table.json. -/
def Instr.mnemonic : Instr → String
  | .reset => "RESET"
  | .init => "INIT"
  | .write _ _ => "WRITE"
  | .read _ => "READ"
  | .dirtyq => "DIRTYQ"

/-- The command the decoder reads from the low `nbits` bits of `w`, under the default
parameters. No command is longer than 32 bits (30 R60). -/
def decodeTableWord (nbits w : Nat) : Option Instr :=
  if nbits ≤ 32 then
    match decode Machine.defaultConfig.hasDirty (BitVec.ofNat 32 (w % 2 ^ nbits)) with
    | .ok i => some i
    | .error _ => none
  else none

end Sys2Proof
end

