-- ==== Sys2Proof/Machine/Status.lean ====
section
/-! DEFINITION. The statuses a command returns, with their context records and their codes
(spec/60_exceptions.md rules R180 to R188). -/

namespace Sys2Proof.Machine

/-- The results under status `Ok` (60 R180). -/
inductive Result where
  /-- `InitOk`, of INIT (40 R110) -/
  | initOk
  /-- `Ok`, of RESET (40 R113) -/
  | resetOk
  /-- `Ignored`, of an unclaimed WRITE (41 R127) -/
  | ignored
  /-- `Switched(idx)`, of a claimed WRITE (41 R131) -/
  | switched (idx : Byte)
  /-- `Ok(byte)`, of READ (42 R152) -/
  | data (b : Byte)
  /-- `Ok(bit)`, of DIRTYQ (42 R156) -/
  | bit (v : Bool)
  deriving DecidableEq, Repr

/-- The reason and the context of `MalformedImage` (60 R181). -/
inductive MalformedReason where
  | headerTruncated (expectedMin actual : Nat)
  | lengthMismatch (expected actual : Nat) (prgCount chrCount : Byte)
  | badMagic (actualMagic : List Byte)
  deriving DecidableEq, Repr

/-- The reason and the context of `UnsupportedConfiguration` (60 R182). -/
inductive UnsupportedReason where
  | unknownMapper (mapperId : Byte)
  | zeroGraphicsBanks (chrCount : Byte)
  | nonPowerOfTwo (chrCount : Byte)
  deriving DecidableEq, Repr

/-- The status of a command, returned on the issuing port (60 R180). -/
inductive Status where
  | ok (r : Result)
  | malformedImage (why : MalformedReason)
  | unsupportedConfiguration (why : UnsupportedReason)
  | outOfRange (offset size : Nat)
  | noSession
  | sessionActive
  | illegalCommand (word : Word)
  deriving DecidableEq, Repr

/-- The status codes of 60 R180. -/
def Status.code : Status → Nat
  | .ok _ => 0x0
  | .malformedImage _ => 0x1
  | .unsupportedConfiguration _ => 0x2
  | .outOfRange _ _ => 0x3
  | .noSession => 0x4
  | .sessionActive => 0x5
  | .illegalCommand _ => 0x6

/-- The reason codes of `MalformedImage` (60 R180). -/
def MalformedReason.code : MalformedReason → Nat
  | .headerTruncated _ _ => 0x1
  | .lengthMismatch _ _ _ _ => 0x2
  | .badMagic _ => 0x3

/-- The reason codes of `UnsupportedConfiguration` (60 R180). -/
def UnsupportedReason.code : UnsupportedReason → Nat
  | .unknownMapper _ => 0x1
  | .zeroGraphicsBanks _ => 0x2
  | .nonPowerOfTwo _ => 0x3

/-- The column "Kind" of 60 R180. -/
inductive StatusKind where
  | success
  | fatal
  | recoverable
  | protocol
  deriving DecidableEq, Repr

/-- Success, fatal, recoverable or protocol (60 R180, R187). -/
def Status.kind : Status → StatusKind
  | .ok _ => .success
  | .malformedImage _ => .fatal
  | .unsupportedConfiguration _ => .fatal
  | .outOfRange _ _ => .recoverable
  | .noSession => .protocol
  | .sessionActive => .protocol
  | .illegalCommand _ => .protocol

/-- An error status; `Ignored` is none (60 R180, R188). -/
def Status.isError (st : Status) : Bool := st.kind != .success

end Sys2Proof.Machine
end

