-- ==== Sys2Proof/Machine/State.lean ====
section
/-! DEFINITION. The state of the block as plain data (spec/10_state.md rules R22 to R39) with the
model's own input and output records, the reasons a step can stop, and the power-on state
(spec/70_reset_and_hazards.md rule R220). -/

namespace Sys2Proof.Machine

/-- Bytes by address, in one canonical form: addresses strictly rising. An address that is not
listed holds no value (00 R10), so no byte value is ever left out of the list. -/
abbrev Memory := List Host.Cell

/-- The active mapper variant (10 R24). CNROM is the only one in scope (00 R4, 41 R121). -/
inductive Variant where
  | cnrom
  deriving DecidableEq, Repr

/-- The session elements of 10 R23 to R30. They exist only while LOADED (10 R31). -/
structure SessionRegs where
  /-- `rom`, the stored image, byte for byte (10 R23) -/
  rom : List Byte
  /-- `variant` (10 R24) -/
  variant : Variant
  /-- the latched `mapper_id` (10 R24) -/
  mapperId : Byte
  /-- `N`, `program_bank_count` (10 R25) -/
  prgCount : Byte
  /-- `G`, `graphics_bank_count` (10 R26) -/
  chrCount : Byte
  /-- `chr_base`, the offset of graphics bank 0 (10 R27) -/
  chrBase : RomAddr
  /-- `sel`, the Mapper Register State (10 R28) -/
  sel : Byte
  /-- `surf`, the Mapped Memory Surface (10 R29) -/
  surf : Memory
  /-- `dirty`; `none` says that it does not exist, `HAS_DIRTY` being false (10 R30) -/
  dirty : Option Bool
  deriving DecidableEq, Repr

/-- `session` (10 R22). The session elements exist exactly while LOADED (10 R31, 00 R10). -/
inductive Session where
  | unloaded
  | loaded (regs : SessionRegs)
  deriving DecidableEq, Repr

/-- A command as an agent presents it: the word, and on the host port what stands on the image
channel beside it (30 R60, R69, 60 R195). -/
inductive Request where
  | host (word : Word) (image : List Byte)
  | cpu (word : Word)
  | display (word : Word)
  deriving DecidableEq, Repr

/-- A status as it is returned on a port (60 R180). -/
structure Response where
  port : Port
  status : Status
  deriving DecidableEq, Repr

/-- The machine. `session` is the block's state; `cfg` is constant; the other four are the
model's inputs and outputs, which the spec does not count as state of the block. -/
structure State where
  /-- the parameters of 00 R6; no step writes them -/
  cfg : Config
  /-- the block's state (10 R22 to R30) -/
  session : Session
  /-- input: the image on the host's image channel (30 R69) -/
  imageChannel : List Byte
  /-- input: the commands presented and not yet taken, in the total order of 20 R40 -/
  pending : List Request
  /-- output: the statuses returned so far, newest first (60 R180); no step reads them -/
  responses : List Response
  /-- output: the trace events `Switch(idx)` so far, newest first (60 R203); no step reads them -/
  trace : List Byte
  deriving DecidableEq, Repr

/-- The named faults: an element without a value is read (93 I10: "Were one reached, fault,
never a value"). Each is raised only in a state that no run from reset reaches, and each is safe:
the machine stops where the spec gives no value. -/
inductive Fault where
  /-- Raised by INIT and WRITE where a bank to copy does not lie inside the image (20 R52 says
  that it always does). Safe. -/
  | romOutOfRange
  /-- Raised by READ where a surface byte below 8192 holds no value. Safe. -/
  | surfaceNoValue
  /-- Raised by DIRTYQ where `HAS_DIRTY` is true and `dirty` holds no value. Safe. -/
  | dirtyNoValue
  deriving DecidableEq, Repr

/-- The named refusals. -/
inductive Refusal where
  /-- Raised by no meaning: it stands for an instruction without a meaning, and every
  instruction has one. Safe. -/
  | notModelled (mnemonic : String)
  /-- Raised by a step that takes a legal command from a port that may not issue it: "must
  refuse a command whose tag does not match this table" (60 R195, 93 I9). Safe. -/
  | wrongPort (port : Port) (i : Instr)
  deriving DecidableEq, Repr

/-- The power-on state (70 R220): UNLOADED, no session element holds a value, the parameters
at the defaults of 00 R6; nothing presented and nothing returned (DESIGN CHOICE, log 3 and 5). -/
def State.reset : State where
  cfg := defaultConfig
  session := .unloaded
  imageChannel := []
  pending := []
  responses := []
  trace := []

end Sys2Proof.Machine
end

