-- ==== Sys2Proof/Machine/Ops.lean ====
section
/-! DEFINITION. The named operations over memory, ports and the variant, and the one shared
operation by which a command ends in an error status. -/

namespace Sys2Proof.Machine

/-! Bytes by address (00 R8: `MemRead`, `MemWrite`). -/

/-- `MemRead(x, 1)`: the byte at `x`, or none where `x` holds no value. -/
def Memory.read : Memory → Nat → Option Byte
  | [], _ => none
  | (a, b) :: m, x => if x = a then some b else Memory.read m x

/-- `MemWrite(x, 1, v)`, keeping the addresses strictly rising. -/
def Memory.write : Memory → Nat → Byte → Memory
  | [], x, v => [(x, v)]
  | (a, b) :: m, x, v =>
    if x < a then (x, v) :: (a, b) :: m
    else if x = a then (x, v) :: m
    else (a, b) :: Memory.write m x v

/-- Every listed address is at least `lo`, and the addresses strictly rise. -/
def Memory.risingFrom : Nat → Memory → Bool
  | _, [] => true
  | lo, (a, _) :: m => decide (lo ≤ a) && Memory.risingFrom (a + 1) m

/-- The canonical form: addresses strictly rising. -/
def Memory.wf (m : Memory) : Bool := Memory.risingFrom 0 m

/-- The memory that holds the bytes at `base`, `base + 1`, and so on, and nothing else. -/
def Memory.ofBytes : Nat → List Byte → Memory
  | _, [] => []
  | base, b :: bs => (base, b) :: Memory.ofBytes (base + 1) bs

/-- The pseudocode's copy loop `for i in 0..: MemWrite(base + i, 1, bytes[i])` (41 R120). The
machine uses the copy in one piece, `Memory.ofBytes`; a law states that the two agree. -/
def Memory.writeLoop : Memory → Nat → List Byte → Memory
  | m, _, [] => m
  | m, base, b :: bs => Memory.writeLoop (m.write base b) (base + 1) bs

/-- Every listed address lies below `n`. -/
def Memory.below (n : Nat) (m : Memory) : Bool := m.all fun c => decide (c.1 < n)

/-- `ROM(off + i)` for `i` in `0..size-1`, or none where the image does not reach that far:
`ROM` is defined inside the image only (00 R8). -/
def romSlice (rom : List Byte) (off size : Nat) : Option (List Byte) :=
  if off + size ≤ rom.length then some ((rom.drop off).take size) else none

/-! Views of the session. -/

/-- `session == LOADED` (10 R22). -/
def State.isLoaded (s : State) : Bool :=
  match s.session with
  | .unloaded => false
  | .loaded _ => true

/-- The Mapped Memory Surface; while UNLOADED no byte of it holds a value (10 R29). -/
def State.surf (s : State) : Memory :=
  match s.session with
  | .unloaded => []
  | .loaded r => r.surf

/-! The mapper variant (41 R121). -/

/-- What kind of bank a variant switches (41 R121). -/
inductive BankClass where
  | graphics
  | program
  deriving DecidableEq, Repr

/-- The bank class (41 R121; 90 C5). -/
def Variant.bankClass : Variant → BankClass
  | .cnrom => .graphics

/-- The trigger range `[lo, hi)`, a constant of the variant (41 R121, 20 R50). -/
def Variant.triggerRange : Variant → Nat × Nat
  | .cnrom => (trigLo, trigHi)

/-- The bank size (41 R121). -/
def Variant.bankSize : Variant → Nat
  | .cnrom => chrBankSize

/-- The surface size (41 R121). -/
def Variant.surfaceSize : Variant → Nat
  | .cnrom => Machine.surfaceSize

/-- The offset of bank 0 of the class the variant switches, from the header count `N`
(41 R121, 10 R27). -/
def Variant.regionBase (v : Variant) (prgCount : Byte) : Nat :=
  match v with
  | .cnrom => headerSize + prgCount.toNat * prgBankSize

/-- The bank index from the data byte and the bank count, mask-and-select (41 R121, R128). -/
def Variant.select (v : Variant) (data bankCount : Byte) : Byte :=
  match v with
  | .cnrom => data &&& (bankCount - 1#8)

/-- The mapper-id that selects the variant (41 R121, 30 R76). -/
def Variant.id (cfg : Config) : Variant → Byte
  | .cnrom => cfg.cnromMapperId

/-- The lookup keyed on the header's mapper-id (41 R121, 40 R108). -/
def variantOfId (cfg : Config) (id : Byte) : Option Variant :=
  if id = Variant.id cfg .cnrom then some .cnrom else none

/-- The surface after a copy of the bank at `off` (41 R131, 40 R110): `surf[i] <- ROM(off + i)`
for the whole bank in one step (20 R44). -/
def bankCopy (v : Variant) (rom : List Byte) (off : Nat) : Option Memory :=
  (romSlice rom off v.bankSize).map (Memory.ofBytes 0)

/-! Ports. -/

/-- The port that presents the command (60 R195). -/
def Request.port : Request → Port
  | .host _ _ => .host
  | .cpu _ => .cpu
  | .display _ => .display

/-- The command word. -/
def Request.word : Request → Word
  | .host w _ => w
  | .cpu w => w
  | .display w => w

/-- Take the first pending command off the list and put a host command's image on the image
channel (30 R69); the other ports have no image channel. -/
def State.accept (s : State) (r : Request) (rest : List Request) : State :=
  match r with
  | .host _ img => { s with pending := rest, imageChannel := img }
  | .cpu _ => { s with pending := rest }
  | .display _ => { s with pending := rest }

/-- The next command of the total order of 20 R40 and the state in which it runs, or none where
no agent presents one. -/
def fetch (s : State) : Option (Request × State) :=
  match s.pending with
  | [] => none
  | r :: rest => some (r, s.accept r rest)

/-- Return a status on a port (60 R180). -/
def respond (p : Port) (st : Status) (s : State) : State :=
  { s with responses := ⟨p, st⟩ :: s.responses }

/-- `raise E(info)` (00 R8): the block's only "exception". It takes no trap (60 R191): the
status goes back to the issuing port, no state element changes (60 R186), and the next command
is accepted (60 R187, R192). -/
def raise (p : Port) (st : Status) (s : State) : Host.Outcome State Fault Refusal :=
  .next (respond p st s)

/-- `return R` (00 R8): a result under status `Ok`. -/
def succeed (p : Port) (r : Result) (s : State) : Host.Outcome State Fault Refusal :=
  .next (respond p (.ok r) s)

/-- `emit Switch(idx)` (60 R203). -/
def State.emit (s : State) (idx : Byte) : State := { s with trace := idx :: s.trace }

/-- Make the session state `x` (10 R22). -/
def State.setSession (s : State) (x : Session) : State := { s with session := x }

/-- An illegal word: `IllegalCommand` with the word on the port that issued it, and nothing
else (30 R63 to R65, 60 R185). -/
def execIllegal (p : Port) (w : Word) (s : State) : Host.Outcome State Fault Refusal :=
  raise p (.illegalCommand w) s

/-- The request by which the agent of `port` presents `w`; on the host port the image is what
stands on the channel. -/
def requestOn (port : Port) (w : Word) (image : List Byte) : Request :=
  match port with
  | .host => .host w image
  | .cpu => .cpu w
  | .display => .display w

/-- The port of the command that `w` decodes to; an illegal word is put on the host port. -/
def portOfWord (hasDirty : Bool) (w : Word) : Port :=
  match decode hasDirty w with
  | .ok i => i.port
  | .error _ => .host

end Sys2Proof.Machine
end

