-- ==== Sys2Proof/Machine/Operands.lean ====
section
/-! DEFINITION. Operand assembly: the header fields of the image, its length and its layout
(spec/30_encoding.md rules R74 to R78), the bank index and the bank offset
(spec/41_bus_write.md rules R128, R130). -/

namespace Sys2Proof.Machine

/-- The three fields the block takes from the header (30 R75, 40 R103). -/
structure Header where
  /-- `N`, `program_bank_count` -/
  prgCount : Byte
  /-- `G`, `graphics_bank_count` -/
  chrCount : Byte
  /-- `mapper_id` -/
  mapperId : Byte
  deriving DecidableEq, Repr

/-- A byte of the header, which lies inside an image of at least 16 bytes. -/
def headerByte (img : List Byte) (h : headerSize ≤ img.length) (off : Fin 16) : Byte :=
  img[off.val]'(Nat.lt_of_lt_of_le off.isLt h)

/-- The mapper-id from the flag bytes 6 and 7 (30 R76). -/
def mapperIdOf (usesFlags7 : Bool) (flags6 flags7 : Byte) : Byte :=
  if usesFlags7 then (flags7 &&& 0xF0#8) ||| (flags6 >>> 4) else flags6 >>> 4

/-- The header fields (40 R103, 30 R75, R76). -/
def readHeader (cfg : Config) (img : List Byte) (h : headerSize ≤ img.length) : Header where
  prgCount := headerByte img h cfg.hdrPrgCountOff
  chrCount := headerByte img h cfg.hdrChrCountOff
  mapperId := mapperIdOf cfg.mapperIdUsesFlags7 (headerByte img h cfg.hdrFlags6Off)
    (headerByte img h cfg.hdrFlags7Off)

/-- `16 + N*16384 + G*8192`, exact (40 R105, 00 R7). -/
def imageLength (prgCount chrCount : Byte) : Nat :=
  headerSize + prgCount.toNat * prgBankSize + chrCount.toNat * chrBankSize

/-- `chr_base = 16 + N*16384` (10 R27) at its 23-bit width. -/
def chrBaseOf (v : Variant) (prgCount : Byte) : RomAddr := BitVec.ofNat 23 (v.regionBase prgCount)

/-- `off = chr_base + idx*8192` (41 R130). -/
def bankOffset (r : SessionRegs) (idx : Byte) : Nat :=
  r.chrBase.toNat + idx.toNat * r.variant.bankSize

/-- `G` is a power of two or zero: `G & (G - 1) == 0` (40 R107). -/
def maskable (chrCount : Byte) : Bool := chrCount &&& (chrCount - 1#8) == 0#8

/-- The image with this header and these banks, byte-concatenated with no padding (30 R74). -/
def layoutImage (header : List Byte) (prgBanks chrBanks : List (List Byte)) : List Byte :=
  header ++ prgBanks.flatten ++ chrBanks.flatten

end Sys2Proof.Machine
end

