-- ==== Sys2Proof/Machine/Flags.lean ====
section
/-! DEFINITION. The address-range comparator, the write enables and the `dirty` indicator
(spec/41_bus_write.md rules R126, R129; spec/10_state.md rule R30). -/

namespace Sys2Proof.Machine

/-- The exact comparison with the variant's trigger range. It is on naturals: an address at or
above 0x10000, were there one, is not claimed and not reduced (41 R126, R133). -/
def claims (v : Variant) (address : Nat) : Bool :=
  decide (v.triggerRange.1 ≤ address) && decide (address < v.triggerRange.2)

/-- `we_sel` (41 R129): enables the write of `sel` and of `dirty`. -/
def weSel (s : State) (address : Addr) : Bool :=
  match s.session with
  | .unloaded => false
  | .loaded r => claims r.variant address.toNat

/-- `we_surf` (41 R129): enables the surface copy. It is the same signal as `we_sel`. -/
def weSurf (s : State) (address : Addr) : Bool := weSel s address

/-- `dirty` after a successful INIT or a `Switched` WRITE: 1, if it exists (10 R30). -/
def dirtySet (cfg : Config) : Option Bool := if cfg.hasDirty then some true else none

end Sys2Proof.Machine
end

