-- ==== Sys2Proof/Machine/CpuPort.lean ====
section
/-! DEFINITION. The CPU port: WRITE, with the dispatcher, the comparator, mask-and-select and the
bank copy (spec/41_bus_write.md). -/

namespace Sys2Proof.Machine

/-- `SwitchResult` (41 R132). -/
inductive SwitchResult where
  | ignored
  | switched (idx : Byte)
  deriving DecidableEq, Repr

/-- `on_write(address, data)` of a variant: its own range check, then mask-and-select
(41 R126 to R128). -/
def Variant.onWrite (v : Variant) (bankCount : Byte) (address : Addr) (data : Byte) :
    SwitchResult :=
  if claims v address.toNat then .switched (v.select data bankCount) else .ignored

/-- The Bus Dispatcher: every write goes to the one active variant, whatever its address
(41 R122, R123). -/
def busDispatch (r : SessionRegs) (address : Addr) (data : Byte) : SwitchResult :=
  r.variant.onWrite r.chrCount address data

/-- The session after a switch to bank `idx` (41 R131); `dirty` is set if it exists. -/
def switchSession (cfg : Config) (r : SessionRegs) (idx : Byte) (surf : Memory) : SessionRegs :=
  { r with surf := surf, sel := idx, dirty := if cfg.hasDirty then some true else r.dirty }

/-- WRITE (41 R120). -/
def execWrite (address : Addr) (data : Byte) (s : State) : Host.Outcome State Fault Refusal :=
  match s.session with
  | .unloaded => raise .cpu .noSession s
  | .loaded r =>
    match busDispatch r address data with
    | .ignored => succeed .cpu .ignored s
    | .switched idx =>
      match bankCopy r.variant r.rom (bankOffset r idx) with
      | none => .fault .romOutOfRange
      | some surf =>
        succeed .cpu (.switched idx)
          ((s.setSession (.loaded (switchSession s.cfg r idx surf))).emit idx)

end Sys2Proof.Machine
end

