-- ==== Sys2Proof/Machine/DisplayPort.lean ====
section
/-! DEFINITION. The display port: READ and DIRTYQ (spec/42_surface_read.md). -/

namespace Sys2Proof.Machine

/-- READ (42 R150): bounds-checked, never wrapped or clamped, without a side effect. -/
def execRead (off : Addr) (s : State) : Host.Outcome State Fault Refusal :=
  match s.session with
  | .unloaded => raise .display .noSession s
  | .loaded r =>
    if surfaceSize ≤ off.toNat then raise .display (.outOfRange off.toNat surfaceSize) s
    else
      match Memory.read r.surf off.toNat with
      | none => .fault .surfaceNoValue
      | some b => succeed .display (.data b) s

/-- The word of DIRTYQ, the context of its `IllegalCommand` (42 R156). -/
def dirtyqWord : Word := 0x40000000#32

/-- DIRTYQ (42 R156): returns `dirty` and clears it. -/
def execDirtyq (s : State) : Host.Outcome State Fault Refusal :=
  if s.cfg.hasDirty then
    match s.session with
    | .unloaded => raise .display .noSession s
    | .loaded r =>
      match r.dirty with
      | none => .fault .dirtyNoValue
      | some v =>
        succeed .display (.bit v) (s.setSession (.loaded { r with dirty := some false }))
  else execIllegal .display dirtyqWord s

end Sys2Proof.Machine
end

