-- ==== Sys2Proof/Machine/HostPort.lean ====
section
/-! DEFINITION. The host port: RESET and INIT (spec/40_rom_loader.md). -/

namespace Sys2Proof.Machine

/-- RESET (40 R113): every session element loses its value and `session` is UNLOADED. -/
def execReset (s : State) : Host.Outcome State Fault Refusal :=
  succeed .host .resetOk (s.setSession .unloaded)

/-- The variant's own checks of the graphics-bank count (40 R107). -/
def Variant.checkCounts (v : Variant) (cfg : Config) (h : Header) : Except Status Unit :=
  match v with
  | .cnrom =>
    if h.chrCount = 0#8 then
      .error (.unsupportedConfiguration (.zeroGraphicsBanks h.chrCount))
    else if cfg.npotPolicy = .reject ∧ maskable h.chrCount = false then
      .error (.unsupportedConfiguration (.nonPowerOfTwo h.chrCount))
    else .ok ()

/-- The checks on the header fields, in the order LengthMismatch, UnknownMapper,
ZeroGraphicsBanks, NonPowerOfTwo (40 R105 to R108). -/
def checkHeader (cfg : Config) (len : Nat) (h : Header) : Except Status Variant :=
  if len ≠ imageLength h.prgCount h.chrCount then
    .error (.malformedImage
      (.lengthMismatch (imageLength h.prgCount h.chrCount) len h.prgCount h.chrCount))
  else
    match variantOfId cfg h.mapperId with
    | none => .error (.unsupportedConfiguration (.unknownMapper h.mapperId))
    | some v =>
      match v.checkCounts cfg h with
      | .error e => .error e
      | .ok () => .ok v

/-- Every check of INIT on the image, in the order of 40 R106: HeaderTruncated, BadMagic, then
the checks on the header fields. -/
def checkImage (cfg : Config) (img : List Byte) : Except Status (Variant × Header) :=
  if h : headerSize ≤ img.length then
    if cfg.checkMagic = true ∧ img.take 4 ≠ magic then
      .error (.malformedImage (.badMagic (img.take 4)))
    else
      match checkHeader cfg img.length (readHeader cfg img h) with
      | .error e => .error e
      | .ok v => .ok (v, readHeader cfg img h)
  else .error (.malformedImage (.headerTruncated headerSize img.length))

/-- The session elements a successful INIT latches (40 R110), the surface apart. -/
def latchSession (cfg : Config) (img : List Byte) (v : Variant) (h : Header) (surf : Memory) :
    SessionRegs where
  rom := img
  variant := v
  mapperId := h.mapperId
  prgCount := h.prgCount
  chrCount := h.chrCount
  chrBase := chrBaseOf v h.prgCount
  sel := 0#8
  surf := surf
  dirty := dirtySet cfg

/-- INIT (40 R100): `SessionActive` in a session; the first failing check's status; else the
commit of 40 R110 in one step, with graphics bank 0 on the surface. -/
def execInit (s : State) : Host.Outcome State Fault Refusal :=
  match s.session with
  | .loaded _ => raise .host .sessionActive s
  | .unloaded =>
    match checkImage s.cfg s.imageChannel with
    | .error e => raise .host e s
    | .ok (v, h) =>
      match bankCopy v s.imageChannel (chrBaseOf v h.prgCount).toNat with
      | none => .fault .romOutOfRange
      | some surf =>
        succeed .host .initOk
          (s.setSession (.loaded (latchSession s.cfg s.imageChannel v h surf)))

end Sys2Proof.Machine
end

