-- ==== Sys2Proof/Machine/Dispatch.lean ====
section
/-! DEFINITION. One arm per command of spec/opcode_table.json. -/

namespace Sys2Proof.Machine

def exec (i : Instr) (s : State) : Host.Outcome State Fault Refusal :=
  match i with
  | .reset => Sys2Proof.Machine.execReset s
  | .init => Sys2Proof.Machine.execInit s
  | .write address data => Sys2Proof.Machine.execWrite address data s
  | .read off => Sys2Proof.Machine.execRead off s
  | .dirtyq => Sys2Proof.Machine.execDirtyq s

end Sys2Proof.Machine
end

