-- ==== Sys2Proof/Machine/Serve.lean ====
section
/-! DEFINITION. What the block does with one command from a port: decode, port table, meaning
(spec/60_exceptions.md rules R190, R195). -/

namespace Sys2Proof.Machine

/-- Serve the command `r` in the state `s`: an illegal word first (60 R190), then the port
table (60 R195), then the command's meaning, which checks the lifecycle and its own operands. -/
def serve (r : Request) (s : State) : Host.Outcome State Fault Refusal :=
  match decode s.cfg.hasDirty r.word with
  | .error _ => execIllegal r.port r.word s
  | .ok i => if i.port = r.port then exec i s else .refused (.wrongPort r.port i)

/-- No agent presents a command: the block does nothing (00 R5). -/
def idle (s : State) : Host.Outcome State Fault Refusal := .next s

end Sys2Proof.Machine
end

