-- ==== Sys2Proof/Machine/Step.lean ====
section
/-! DEFINITION. One step: the next command of the total order, whole (spec/20_memory.md rule R40,
spec/00_scope.md rule R9). -/

namespace Sys2Proof.Machine

/-- Take the next pending command and serve it as one indivisible step (20 R40, 00 R9). -/
def step (s : State) : Host.Outcome State Fault Refusal :=
  match fetch s with
  | none => idle s
  | some (r, s') => serve r s'

/-- `s` with the word `w` presented next, on the port that the opcode table gives its command;
INIT finds the image that stands on the channel of `s`. -/
def State.withFetchWord (s : State) (nbits w : Nat) : State :=
  let word := BitVec.ofNat 32 (w % 2 ^ nbits)
  { s with
    pending := requestOn (portOfWord s.cfg.hasDirty word) word s.imageChannel :: s.pending }

end Sys2Proof.Machine
end

