-- ==== Sys2Proof/Machine/Assembler.lean ====
section
/-! DEFINITION. The assembler of command streams and the pseudo-instruction `select`
(spec/30_encoding.md rules R72, R73). It makes requests; no step of the machine uses it. -/

namespace Sys2Proof.Machine

/-- A line of a command stream with its numbers as written (30 R72, R73). -/
inductive Source where
  | reset
  | init (image : List Char)
  | write (address data : Nat)
  | read (offset : Nat)
  | dirtyq
  | select (bank : Nat)
  deriving DecidableEq, Repr

/-- Why a line is an assembly error and not a command (30 R72). -/
inductive AsmError where
  /-- the line has none of the forms of 30 R72 and R73 -/
  | badForm
  /-- an operand is not a number -/
  | badNumber
  /-- a number is out of range -/
  | outOfRange
  /-- the image name is not bound (DESIGN CHOICE, log 13: the spec is silent on such a name) -/
  | unboundImage
  deriving DecidableEq, Repr

/-- The pseudo-instruction: `select b` is `write 0x8000, b` (30 R73). -/
def Source.expand : Source → Source
  | .select b => .write 0x8000 b
  | x => x

/-- The command of an expanded line, its operands checked against their widths (30 R72). -/
def Source.toInstr (x : Source) : Except AsmError Instr :=
  match x.expand with
  | .reset => .ok .reset
  | .init _ => .ok .init
  | .write a d =>
    if a < 2 ^ 16 ∧ d < 2 ^ 8 then .ok (.write (BitVec.ofNat 16 a) (BitVec.ofNat 8 d))
    else .error .outOfRange
  | .read o => if o < 2 ^ 16 then .ok (.read (BitVec.ofNat 16 o)) else .error .outOfRange
  | .dirtyq => .ok .dirtyq
  | .select _ => .error .badForm

/-- The images bound outside the stream (30 R72). The spec is silent on a name bound twice. -/
abbrev ImageTable := List (List Char × List Byte)

/-- The image a name is bound to: that of the first binding, and none where the name has no
binding (DESIGN CHOICE, log 13: 30 R72 is silent on both). -/
def lookupImage : ImageTable → List Char → Option (List Byte)
  | [], _ => none
  | (n, img) :: t, x => if x = n then some img else lookupImage t x

/-- What `init` puts on the image channel; an unbound name is an assembly error. The other
commands bring no image, and `reset` so presents the empty one (30 R69; DESIGN CHOICE,
log 13). -/
def Source.image (images : ImageTable) : Source → Except AsmError (List Byte)
  | .init n =>
    match lookupImage images n with
    | some img => .ok img
    | none => .error .unboundImage
  | _ => .ok []

/-- A line as a request on the port of its command (30 R62, 60 R195). -/
def Source.assemble (images : ImageTable) (x : Source) : Except AsmError Request :=
  match x.toInstr with
  | .error e => .error e
  | .ok i =>
    match x.image images with
    | .error e => .error e
    | .ok img => .ok (requestOn i.port (encode i) img)

/-! The text of a line. -/

/-- The value of a digit in the base, lower or upper case (DESIGN CHOICE, log 6). -/
def digitValue (base : Nat) (c : Char) : Option Nat :=
  let v :=
    if '0' ≤ c ∧ c ≤ '9' then c.toNat - 48
    else if 'a' ≤ c ∧ c ≤ 'f' then c.toNat - 87
    else if 'A' ≤ c ∧ c ≤ 'F' then c.toNat - 55
    else base
  if v < base then some v else none

/-- The digits of a number, most significant first, onto `acc`. -/
def digits (base : Nat) : Nat → List Char → Option Nat
  | acc, [] => some acc
  | acc, c :: cs =>
    match digitValue base c with
    | some v => digits base (acc * base + v) cs
    | none => none

/-- A number: hexadecimal with `0x`, or decimal (30 R72). -/
def parseNumber : List Char → Except AsmError Nat
  | [] => .error .badNumber
  | '0' :: 'x' :: [] => .error .badNumber
  | '0' :: 'x' :: c :: cs =>
    match digits 16 0 (c :: cs) with
    | some n => .ok n
    | none => .error .badNumber
  | c :: cs =>
    match digits 10 0 (c :: cs) with
    | some n => .ok n
    | none => .error .badNumber

/-- Cut a comment: `;` to the end of the line (30 R72). -/
def stripComment (line : List Char) : List Char := line.takeWhile fun c => c != ';'

/-- Put the word read so far before the words that follow it. -/
def flushWord (word : List Char) (rest : List (List Char)) : List (List Char) :=
  if word = [] then rest else word :: rest

/-- The words of a line; blanks separate words and a comma is a word of its own (DESIGN CHOICE,
log 6). -/
def tokens : List Char → List Char → List (List Char)
  | word, [] => flushWord word []
  | word, c :: cs =>
    if c = ' ' ∨ c = '\t' ∨ c = '\r' then flushWord word (tokens [] cs)
    else if c = ',' then flushWord word ([','] :: tokens [] cs)
    else tokens (word ++ [c]) cs

/-- The forms of 30 R72 and R73 over the words of a line. An empty line holds no command, and an
image name is any word (DESIGN CHOICE, log 6). -/
def parseTokens : List (List Char) → Except AsmError (Option Source)
  | [] => .ok none
  | [m] =>
    if m = ['r', 'e', 's', 'e', 't'] then .ok (some .reset)
    else if m = ['d', 'i', 'r', 't', 'y', 'q'] then .ok (some .dirtyq)
    else .error .badForm
  | [m, x] =>
    if m = ['i', 'n', 'i', 't'] then .ok (some (.init x))
    else if m = ['r', 'e', 'a', 'd'] then
      match parseNumber x with
      | .ok n => .ok (some (.read n))
      | .error e => .error e
    else if m = ['s', 'e', 'l', 'e', 'c', 't'] then
      match parseNumber x with
      | .ok n => .ok (some (.select n))
      | .error e => .error e
    else .error .badForm
  | [m, x, comma, y] =>
    if m = ['w', 'r', 'i', 't', 'e'] ∧ comma = [','] then
      match parseNumber x, parseNumber y with
      | .ok a, .ok d => .ok (some (.write a d))
      | .error e, _ => .error e
      | _, .error e => .error e
    else .error .badForm
  | _ => .error .badForm

/-- One line of text (30 R72). -/
def parseLine (line : List Char) : Except AsmError (Option Source) :=
  parseTokens (tokens [] (stripComment line))

/-- The lines of a text; a line feed ends a line (DESIGN CHOICE, log 6). -/
def splitLines : List Char → List Char → List (List Char)
  | line, [] => [line]
  | line, c :: cs => if c = '\n' then line :: splitLines [] cs else splitLines (line ++ [c]) cs

/-- The requests of the lines in order; the first assembly error, an unbound image name among
them, ends it (DESIGN CHOICE, log 6 and 13). -/
def assembleLines (images : ImageTable) : List (List Char) → Except AsmError (List Request)
  | [] => .ok []
  | l :: ls =>
    match parseLine l with
    | .error e => .error e
    | .ok none => assembleLines images ls
    | .ok (some x) =>
      match x.assemble images with
      | .error e => .error e
      | .ok r =>
        match assembleLines images ls with
        | .error e => .error e
        | .ok rs => .ok (r :: rs)

/-- A command stream, one command a line (30 R72). -/
def assemble (images : ImageTable) (text : List Char) : Except AsmError (List Request) :=
  assembleLines images (splitLines [] text)

end Sys2Proof.Machine
end

