-- ==== Sys2Proof/Safety.lean ====
section
/-! DEFINITION. The terms claims use: what holds in every good state, what a run's output record
says, and which statuses a run is to be free of. -/

namespace Sys2Proof.Machine

/-- What holds of the session elements in every LOADED state (10 R23 to R33, 20 R52). -/
structure SessionRegs.Inv (cfg : Config) (r : SessionRegs) : Prop where
  /-- `L = 16 + N*16384 + G*8192` (30 R74, 40 R105) -/
  romLength : r.rom.length = imageLength r.prgCount r.chrCount
  /-- the latched fields are those of the stored header (10 R24 to R26) -/
  header : ∃ h : headerSize ≤ r.rom.length,
    readHeader cfg r.rom h = ⟨r.prgCount, r.chrCount, r.mapperId⟩
  /-- the magic bytes, where they are checked (30 R77) -/
  magicBytes : cfg.checkMagic = true → r.rom.take 4 = magic
  /-- the latched mapper-id is the variant's (10 R24, 40 R108) -/
  mapper : r.mapperId = r.variant.id cfg
  /-- `G >= 1` (10 R26) -/
  banks : r.chrCount ≠ 0#8
  /-- `G` is a power of two under `reject` (10 R26) -/
  powerOfTwo : cfg.npotPolicy = .reject → maskable r.chrCount = true
  /-- `chr_base = 16 + N*16384` (10 R27) -/
  base : r.chrBase.toNat = r.variant.regionBase r.prgCount
  /-- `sel < G` (10 R32) -/
  selected : r.sel.toNat < r.chrCount.toNat
  /-- the surface is the selected bank of the image, all of it and nothing else (10 R29, R33) -/
  surface : bankCopy r.variant r.rom (bankOffset r r.sel) = some r.surf
  /-- `dirty` exists exactly when `HAS_DIRTY` (10 R30) -/
  dirtyExists : r.dirty.isSome = cfg.hasDirty

/-- The session invariant in every LOADED state. -/
def State.Inv (s : State) : Prop :=
  match s.session with
  | .unloaded => True
  | .loaded r => r.Inv s.cfg

/-- The block is UNLOADED and the image on the channel has a header with these bytes for `N`,
`G` and the two flag bytes, passes the magic check where it is made, and has the length its
counts call for: the premises of the checks 5 to 7 of 40 R106. -/
def State.PresentsWellSizedImage (s : State) (n g f6 f7 : Byte) : Prop :=
  s.session = .unloaded ∧ 16 ≤ s.imageChannel.length ∧
  (s.cfg.checkMagic = true → s.imageChannel.take 4 = [0x4E#8, 0x45#8, 0x53#8, 0x1A#8]) ∧
  s.imageChannel[s.cfg.hdrPrgCountOff.val]? = some n ∧
  s.imageChannel[s.cfg.hdrChrCountOff.val]? = some g ∧
  s.imageChannel[s.cfg.hdrFlags6Off.val]? = some f6 ∧
  s.imageChannel[s.cfg.hdrFlags7Off.val]? = some f7 ∧
  s.imageChannel.length = 16 + n.toNat * 16384 + g.toNat * 8192

/-! What the output record says, newest response first. -/

/-- The index of a `Switched` result. -/
def switchedIndex (x : Response) : Option Byte :=
  match x.status with
  | .ok (.switched idx) => some idx
  | _ => none

/-- A successful INIT or a `Switched` WRITE was answered after the last DIRTYQ of the session
(42 R157). -/
def changedSinceQuery : List Response → Bool
  | [] => false
  | x :: xs =>
    match x.status with
    | .ok .initOk => true
    | .ok (.switched _) => true
    | .ok (.bit _) => false
    | _ => changedSinceQuery xs

/-- The last INIT that succeeded was answered after the last RESET (10 R22). -/
def sessionOpen : List Response → Bool
  | [] => false
  | x :: xs =>
    match x.status with
    | .ok .initOk => true
    | .ok .resetOk => false
    | _ => sessionOpen xs

/-- The bank of the last `Switched` result of the session, or bank 0 (10 R28). -/
def lastSelected : List Response → Byte
  | [] => 0#8
  | x :: xs =>
    match x.status with
    | .ok .initOk => 0#8
    | .ok (.switched idx) => idx
    | _ => lastSelected xs

/-- The output record agrees with the state: the trace holds the `Switched` indices (60 R203),
`session`, `sel` and `dirty` are what the answered commands made them (10 R22, R28, R30). -/
structure State.RecordInv (s : State) : Prop where
  traced : s.trace = s.responses.filterMap switchedIndex
  opened : s.isLoaded = sessionOpen s.responses
  selected : ∀ r, s.session = .loaded r → r.sel = lastSelected s.responses
  changed : ∀ r, s.session = .loaded r → s.cfg.hasDirty = true →
    r.dirty = some (changedSinceQuery s.responses)

/-! Statuses that a model is to record as a fault (93 I7, I8). -/

/-- The protocol statuses `NoSession`, `SessionActive` and `IllegalCommand`. -/
def Status.isProtocolFault (st : Status) : Bool := st.kind == .protocol

/-- A protocol status was returned somewhere in the run: the run is not a good one. -/
def State.recordsFault (s : State) : Bool := s.responses.any fun x => x.status.isProtocolFault

/-- A DIRTYQ's answer. -/
def Response.answersQuery (x : Response) : Bool :=
  match x.status with
  | .ok (.bit _) => true
  | _ => false

end Sys2Proof.Machine

/-- The status codes a command can return: the column "Raised by" of 60 R180. A legal DIRTYQ
returns `IllegalCommand` only where the feature is absent. -/
def Sys2Proof.Instr.statusCodes (hasDirty : Bool) : Sys2Proof.Instr → List Nat
  | .reset => [0x0]
  | .init => [0x0, 0x1, 0x2, 0x5]
  | .write _ _ => [0x0, 0x4]
  | .read _ => [0x0, 0x3, 0x4]
  | .dirtyq => if hasDirty then [0x0, 0x4] else [0x6]
end

