-- ==== Sys2Proof/Certificates/Slice0/Obligations.lean ====
section
/-! DEFINITION. The statements for the provers. Each cites the rules of spec/ it formalises. -/

open Sys2Proof Sys2Proof.Machine

/-! The command word. -/

/-- Decoding the word of a command that exists gives the command back, whatever its operands
(30 R61, R66, R70). -/
def Obligations.DecodeOfEncode : Prop :=
  ∀ (hasDirty : Bool) (i : Instr), i.wf hasDirty = true → decode hasDirty (encode i) = .ok i

/-- A word that decodes is the encoding of the command it decodes to, and that command exists:
no two words mean one command, and no bit is dropped (30 R64, R65, R70). -/
def Obligations.EncodeOfDecode : Prop :=
  ∀ (hasDirty : Bool) (w : Word) (i : Instr),
    decode hasDirty w = .ok i → encode i = w ∧ i.wf hasDirty = true

/-- With `HAS_DIRTY` the decoder accepts a word exactly when a row of spec/opcode_table.json
covers it, and then as that row's command (30 R62; opcode_table.json). -/
def Obligations.DecoderFollowsOpcodeTable : Prop :=
  ∀ (w : Word) (m : String),
    (∃ i, decode true w = .ok i ∧ i.mnemonic = m) ↔
      ∃ row ∈ opcodeTable, row.mnemonic = m ∧ row.covers w = true

/-- An illegal word (reserved opcode; a bit set that the opcode does not use; DIRTYQ without
`HAS_DIRTY`) returns `IllegalCommand` with the word on the port that issued it and changes no
state (30 R63, R64, R65, 60 R185). -/
def Obligations.IllegalWordChangesNothing : Prop :=
  ∀ (s : State) (r : Request) (rest : List Request), s.pending = r :: rest →
    (0x5#4 ≤ opField r.word ∨
      ((opField r.word = 0x0#4 ∨ opField r.word = 0x1#4 ∨ opField r.word = 0x4#4) ∧
        r.word.extractLsb' 0 28 ≠ 0#28) ∨
      (opField r.word = 0x2#4 ∧ r.word.extractLsb' 24 4 ≠ 0#4) ∨
      (opField r.word = 0x3#4 ∧
        (r.word.extractLsb' 24 4 ≠ 0#4 ∨ r.word.extractLsb' 0 8 ≠ 0#8)) ∨
      (s.cfg.hasDirty = false ∧ r.word = 0x40000000#32)) →
    ∃ t, step s = .next t ∧ t.session = s.session ∧ t.trace = s.trace ∧ t.cfg = s.cfg ∧
      t.pending = rest ∧
      t.responses = ⟨r.port, .illegalCommand r.word⟩ :: s.responses

/-- Every decode vector of 95 section 2.1, for both values of `HAS_DIRTY`, on which only the word
of DIRTYQ depends; and the WRITE word of step 5 of the program P3 of 95. -/
def Obligations.SpecWordsDecode : Prop :=
  ∀ hasDirty : Bool,
    decode hasDirty 0x00000000#32 = .ok .reset ∧
    decode hasDirty 0x00000001#32 = .error .unusedBitSet ∧
    decode hasDirty 0x10000000#32 = .ok .init ∧
    decode hasDirty 0x10000100#32 = .error .unusedBitSet ∧
    decode hasDirty 0x20800006#32 = .ok (.write 0x8000#16 0x06#8) ∧
    decode hasDirty 0x20000000#32 = .ok (.write 0x0000#16 0x00#8) ∧
    decode hasDirty 0x2FFFFFFF#32 = .error .unusedBitSet ∧
    decode hasDirty 0x21800006#32 = .error .unusedBitSet ∧
    decode hasDirty 0x301FFF00#32 = .ok (.read 0x1FFF#16) ∧
    decode hasDirty 0x301FFF01#32 = .error .unusedBitSet ∧
    decode hasDirty 0x30FFFF00#32 = .ok (.read 0xFFFF#16) ∧
    decode hasDirty 0x40000000#32 =
      (if hasDirty then .ok .dirtyq else .error .featureAbsent) ∧
    decode hasDirty 0x40000001#32 = .error .unusedBitSet ∧
    decode hasDirty 0x50000000#32 = .error .reservedOpcode ∧
    decode hasDirty 0x8ABCDEF0#32 = .error .reservedOpcode ∧
    decode hasDirty 0xF0000000#32 = .error .reservedOpcode ∧
    decode hasDirty 0xFFFFFFFF#32 = .error .reservedOpcode ∧
    decode hasDirty 0x20C123FD#32 = .ok (.write 0xC123#16 0xFD#8)

/-- The values of the one variant in scope (41 R121). -/
def Obligations.CnromVariantValues : Prop :=
  ∀ (cfg : Config) (n d g : Byte),
    Variant.cnrom.id cfg = cfg.cnromMapperId ∧
    Variant.cnrom.triggerRange = (0x8000, 0x10000) ∧ Variant.cnrom.bankClass = .graphics ∧
    Variant.cnrom.bankSize = 8192 ∧ Variant.cnrom.surfaceSize = 8192 ∧
    Variant.cnrom.regionBase n = 16 + n.toNat * 16384 ∧
    Variant.cnrom.select d g = d &&& (g - 1#8)

/-- The status and reason codes of 60 R180. -/
def Obligations.StatusAndReasonCodes : Prop :=
  ∀ (r : Result) (m : MalformedReason) (u : UnsupportedReason) (o z : Nat) (n g : Byte)
    (bs : List Byte) (w : Word),
    (Status.ok r).code = 0x0 ∧ (Status.malformedImage m).code = 0x1 ∧
    (Status.unsupportedConfiguration u).code = 0x2 ∧ (Status.outOfRange o z).code = 0x3 ∧
    Status.noSession.code = 0x4 ∧ Status.sessionActive.code = 0x5 ∧
    (Status.illegalCommand w).code = 0x6 ∧
    (MalformedReason.headerTruncated o z).code = 0x1 ∧
    (MalformedReason.lengthMismatch o z n g).code = 0x2 ∧
    (MalformedReason.badMagic bs).code = 0x3 ∧
    (UnsupportedReason.unknownMapper n).code = 0x1 ∧
    (UnsupportedReason.zeroGraphicsBanks g).code = 0x2 ∧
    (UnsupportedReason.nonPowerOfTwo g).code = 0x3

/-! The step, the ports and the order of commands. -/

/-- A step takes the first pending command off the list, puts a host command's image on the
image channel, and runs the meaning of the command its word decodes to (20 R40, 30 R69,
60 R195). -/
def Obligations.StepRunsDecodedCommand : Prop :=
  ∀ (s : State) (r : Request) (rest : List Request) (i : Instr),
    s.pending = r :: rest → decode s.cfg.hasDirty r.word = .ok i → i.port = r.port →
    step s = exec i
      { s with
        pending := rest
        imageChannel := match r with
          | .host _ img => img
          | .cpu _ => s.imageChannel
          | .display _ => s.imageChannel }

/-- The port table of 60 R195, and the refusal of a command from another port. -/
def Obligations.PortTableIsEnforced : Prop :=
  (∀ (a : Addr) (d : Byte) (o : Addr), Instr.reset.port = .host ∧ Instr.init.port = .host ∧
    (Instr.write a d).port = .cpu ∧ (Instr.read o).port = .display ∧
    Instr.dirtyq.port = .display) ∧
  (∀ (s : State) (r : Request) (rest : List Request) (i : Instr),
    s.pending = r :: rest → decode s.cfg.hasDirty r.word = .ok i → i.port ≠ r.port →
    step s = .refused (.wrongPort r.port i))

/-- A table word presented by `withFetchWord` is the command the very next step runs, in the
state in which it was presented (the model's choice of input, log 3). -/
def Obligations.PresentedWordRunsNext : Prop :=
  ∀ (s : State) (w : Nat) (i : Instr), s.cfg.hasDirty = defaultConfig.hasDirty →
    decodeTableWord 32 w = some i → step (s.withFetchWord 32 w) = exec i s

/-- The model's choice (log 3): with no command presented a step changes nothing. -/
def Obligations.IdleStepChangesNothing : Prop :=
  ∀ s : State, s.pending = [] → step s = .next s

/-- Every served command leaves the list and returns exactly one status, on its own port
(20 R40, 60 R180). -/
def Obligations.OneStatusPerStep : Prop :=
  ∀ (s t : State) (r : Request) (rest : List Request),
    s.pending = r :: rest → step s = .next t →
    t.pending = rest ∧ t.cfg = s.cfg ∧ ∃ st, t.responses = ⟨r.port, st⟩ :: s.responses

/-- A command sees none of the commands after it: what it does is the same whatever commands
follow (20 R40). -/
def Obligations.LaterCommandsHaveNoInfluence : Prop :=
  ∀ (s t : State) (r : Request) (rest rest' : List Request),
    s.pending = r :: rest → step s = .next t →
    step { s with pending := r :: rest' } = .next { t with pending := rest' }

/-- The statuses returned before and the trace are outputs only: no later effect depends on
them (10 R31, 60 R203). -/
def Obligations.OutputsHaveNoInfluence : Prop :=
  ∀ (s t : State) (rs : List Response) (tr : List Byte), step s = .next t →
    ∃ u new newTrace,
      step { s with responses := rs, trace := tr } = .next u ∧
      u.session = t.session ∧ u.cfg = t.cfg ∧ u.imageChannel = t.imageChannel ∧
      u.pending = t.pending ∧
      t.responses = new ++ s.responses ∧ u.responses = new ++ rs ∧
      t.trace = newTrace ++ s.trace ∧ u.trace = newTrace ++ tr

/-- From a good state a step never faults: no command reads an element without a value or a
ROM byte outside the image (00 R10, 20 R52). -/
def Obligations.GoodStateNeverFaults : Prop :=
  ∀ (s : State), s.Inv → ∀ f : Fault, step s ≠ .fault f

/-- From a good state every command that its port may issue, and every illegal word, is
answered (60 R180, R195). -/
def Obligations.GoodStateAnswersEveryCommand : Prop :=
  ∀ (s : State) (r : Request) (rest : List Request), s.Inv → s.pending = r :: rest →
    (∀ i, decode s.cfg.hasDirty r.word = .ok i → i.port = r.port) → ∃ t, step s = .next t

/-! Reset and the session lifecycle. -/

/-- RESET, from every state: the session ends, the status is Ok, everything else stays; a READ
after it returns `NoSession` (40 R113, R114). -/
def Obligations.ResetEndsSession : Prop :=
  encode .reset = 0x00000000#32 ∧ Instr.reset.port = .host ∧
  ∀ s : State,
    exec .reset s = .next { s with
      session := .unloaded
      responses := ⟨.host, .ok .resetOk⟩ :: s.responses } ∧
    ∀ (t : State) (o : Addr), exec .reset s = .next t →
      exec (.read o) t =
        .next { t with responses := ⟨.display, .noSession⟩ :: t.responses }

/-- At power-on and after RESET the block is UNLOADED and no session element holds a value; in
particular no surface byte does (70 R220, 10 R29). -/
def Obligations.PowerOnState : Prop :=
  State.reset.session = .unloaded ∧ (∀ a, Memory.read State.reset.surf a = none) ∧
  ∀ s t : State, exec .reset s = .next t →
    t.session = State.reset.session ∧ ∀ a, Memory.read t.surf a = none

/-- The power-on state meets the two invariants (70 R220). -/
def Obligations.ResetMeetsInvariants : Prop := State.reset.Inv ∧ State.reset.RecordInv

/-- The protocol statuses: WRITE, READ and DIRTYQ while UNLOADED return `NoSession`, INIT while
LOADED returns `SessionActive`, and nothing else changes (60 R184, 40 R101, 41 R124, 42 R153). -/
def Obligations.LifecycleStatuses : Prop :=
  (∀ (s : State) (a : Addr) (d : Byte), s.session = .unloaded →
    exec (.write a d) s =
      .next { s with responses := ⟨.cpu, .noSession⟩ :: s.responses }) ∧
  (∀ (s : State) (o : Addr), s.session = .unloaded →
    exec (.read o) s =
      .next { s with responses := ⟨.display, .noSession⟩ :: s.responses }) ∧
  (∀ s : State, s.session = .unloaded → s.cfg.hasDirty = true →
    exec .dirtyq s =
      .next { s with responses := ⟨.display, .noSession⟩ :: s.responses }) ∧
  (∀ (s : State) (r : SessionRegs), s.session = .loaded r →
    exec .init s =
      .next { s with responses := ⟨.host, .sessionActive⟩ :: s.responses })

/-- Only INIT starts a session and only RESET ends one (10 R22). -/
def Obligations.OnlyHostChangesLifecycle : Prop :=
  ∀ (i : Instr) (s t : State), exec i s = .next t →
    (s.isLoaded = false → t.isLoaded = true → i = .init) ∧
    (s.isLoaded = true → t.isLoaded = false → i = .reset)

/-! INIT. -/

/-- An image of fewer than 16 bytes is truncated (40 R102). -/
def Obligations.InitRejectsTruncatedHeader : Prop :=
  ∀ s : State, s.session = .unloaded → s.imageChannel.length < 16 →
    exec .init s = .next { s with
      responses := ⟨.host, .malformedImage (.headerTruncated 16 s.imageChannel.length)⟩ ::
        s.responses }

/-- With `CHECK_MAGIC` a wrong magic is malformed; without it the magic is not examined: two
images that differ only in bytes 0 to 3 get the same status, for header fields that lie beyond
them (40 R104). -/
def Obligations.InitMagicCheck : Prop :=
  (∀ s : State, s.session = .unloaded → s.cfg.checkMagic = true →
    16 ≤ s.imageChannel.length → s.imageChannel.take 4 ≠ [0x4E#8, 0x45#8, 0x53#8, 0x1A#8] →
    exec .init s = .next { s with
      responses := ⟨.host, .malformedImage (.badMagic (s.imageChannel.take 4))⟩ ::
        s.responses }) ∧
  (∀ (s : State) (m m' body : List Byte), s.session = .unloaded → s.cfg.checkMagic = false →
    4 ≤ s.cfg.hdrPrgCountOff.val → 4 ≤ s.cfg.hdrChrCountOff.val →
    4 ≤ s.cfg.hdrFlags6Off.val → 4 ≤ s.cfg.hdrFlags7Off.val →
    m.length = 4 → m'.length = 4 →
    ∃ t t' st,
      exec .init { s with imageChannel := m ++ body } = .next t ∧
      exec .init { s with imageChannel := m' ++ body } = .next t' ∧
      t.responses = ⟨.host, st⟩ :: s.responses ∧ t'.responses = ⟨.host, st⟩ :: s.responses)

/-- An image whose length is not `16 + N*16384 + G*8192` is malformed, too short and too long
alike, whatever its mapper-id and its bank counts (40 R105, R106). -/
def Obligations.InitRejectsLengthMismatch : Prop :=
  ∀ (s : State) (n g : Byte), s.session = .unloaded → 16 ≤ s.imageChannel.length →
    (s.cfg.checkMagic = true → s.imageChannel.take 4 = [0x4E#8, 0x45#8, 0x53#8, 0x1A#8]) →
    s.imageChannel[s.cfg.hdrPrgCountOff.val]? = some n →
    s.imageChannel[s.cfg.hdrChrCountOff.val]? = some g →
    s.imageChannel.length ≠ 16 + n.toNat * 16384 + g.toNat * 8192 →
    exec .init s = .next { s with
      responses := ⟨.host, .malformedImage
        (.lengthMismatch (16 + n.toNat * 16384 + g.toNat * 8192) s.imageChannel.length n g)⟩ ::
          s.responses }

/-- Among images of the right length, a mapper-id other than CNROM's is unsupported, and a
session that INIT starts has the CNROM variant and its mapper-id (30 R76, 40 R108). -/
def Obligations.InitSelectsVariantByMapperId : Prop :=
  (∀ (s : State) (n g f6 f7 id : Byte), s.PresentsWellSizedImage n g f6 f7 →
    id = (if s.cfg.mapperIdUsesFlags7 then (f7 &&& 0xF0#8) ||| (f6 >>> 4) else f6 >>> 4) →
    id ≠ s.cfg.cnromMapperId →
    exec .init s = .next { s with
      responses := ⟨.host, .unsupportedConfiguration (.unknownMapper id)⟩ :: s.responses }) ∧
  (∀ (s t : State) (r : SessionRegs), s.session = .unloaded → exec .init s = .next t →
    t.session = .loaded r → r.variant = .cnrom ∧ r.mapperId = s.cfg.cnromMapperId)

/-- Among images of the right length and mapper-id, `G = 0` is unsupported, `G` no power of two
is unsupported under `reject`; under `mask` every other `G` is accepted, WRITE masks with
`G - 1`, and exactly the banks whose index is a bit-subset of `G - 1` can be selected
(40 R107). -/
def Obligations.InitChecksBankCount : Prop :=
  ∀ (s : State) (n g f6 f7 : Byte), s.PresentsWellSizedImage n g f6 f7 →
    s.cfg.cnromMapperId =
      (if s.cfg.mapperIdUsesFlags7 then (f7 &&& 0xF0#8) ||| (f6 >>> 4) else f6 >>> 4) →
    (g = 0#8 → exec .init s = .next { s with
      responses := ⟨.host, .unsupportedConfiguration (.zeroGraphicsBanks 0#8)⟩ ::
        s.responses }) ∧
    (g ≠ 0#8 → s.cfg.npotPolicy = .reject → g &&& (g - 1#8) ≠ 0#8 →
      exec .init s = .next { s with
        responses := ⟨.host, .unsupportedConfiguration (.nonPowerOfTwo g)⟩ :: s.responses }) ∧
    (g ≠ 0#8 → s.cfg.npotPolicy = .mask →
      (∃ t, exec .init s = .next t ∧ t.responses = ⟨.host, .ok .initOk⟩ :: s.responses ∧
        ∀ (a : Addr) (d : Byte), 0x8000 ≤ a.toNat → ∃ u, exec (.write a d) t = .next u ∧
          u.responses = ⟨.cpu, .ok (.switched (d &&& (g - 1#8)))⟩ :: t.responses) ∧
      ∀ b : Byte, (∃ d : Byte, d &&& (g - 1#8) = b) ↔ b &&& (g - 1#8) = b)

/-- A successful INIT: every check passes, and one step latches the image and the header fields,
selects bank 0, fills the surface with it, sets `dirty` if it exists, and returns `InitOk`
without a trace event (40 R110). -/
def Obligations.InitStartsSession : Prop :=
  ∀ (s : State) (n g f6 f7 : Byte), s.PresentsWellSizedImage n g f6 f7 →
    s.cfg.cnromMapperId =
      (if s.cfg.mapperIdUsesFlags7 then (f7 &&& 0xF0#8) ||| (f6 >>> 4) else f6 >>> 4) →
    g ≠ 0#8 → (s.cfg.npotPolicy = .reject → g &&& (g - 1#8) = 0#8) →
    ∃ r, exec .init s = .next { s with
        session := .loaded r
        responses := ⟨.host, .ok .initOk⟩ :: s.responses } ∧
      r.rom = s.imageChannel ∧ r.variant = .cnrom ∧ r.mapperId = s.cfg.cnromMapperId ∧
      r.prgCount = n ∧ r.chrCount = g ∧ r.chrBase.toNat = 16 + n.toNat * 16384 ∧ r.sel = 0#8 ∧
      r.dirty = (if s.cfg.hasDirty then some true else none) ∧
      (∀ i, i < 8192 → ∃ b, s.imageChannel[16 + n.toNat * 16384 + i]? = some b ∧
        Memory.read r.surf i = some b) ∧
      ∀ i, 8192 ≤ i → Memory.read r.surf i = none

/-- An INIT in the UNLOADED state that does not return `InitOk` changes nothing but the status it
returns: no partial load, no partial fill (40 R109). -/
def Obligations.FailedInitChangesNothing : Prop :=
  ∀ s t : State, s.session = .unloaded → exec .init s = .next t →
    t.responses ≠ ⟨.host, .ok .initOk⟩ :: s.responses →
    ∃ st, st.isError = true ∧ t = { s with responses := ⟨.host, st⟩ :: s.responses }

/-- INIT always answers: whatever is presented, and whatever the parameters, it returns a status
(40 R106, R112; 20 R52). -/
def Obligations.InitAlwaysAnswers : Prop := ∀ s : State, ∃ t, exec .init s = .next t

/-- INIT's status and the session it leaves are a function of the image, the parameters and the
session alone (40 R112). -/
def Obligations.InitIsDeterministic : Prop :=
  ∀ s s' : State, s.session = s'.session → s.cfg = s'.cfg → s.imageChannel = s'.imageChannel →
    ∃ t t' st, exec .init s = .next t ∧ exec .init s' = .next t' ∧ t.session = t'.session ∧
      t.responses = ⟨.host, st⟩ :: s.responses ∧ t'.responses = ⟨.host, st⟩ :: s'.responses

/-- No header byte changes INIT's status but those of the three fields, and the magic where it
is checked (40 R103). -/
def Obligations.InitReadsOnlyHeaderFields : Prop :=
  ∀ s s' : State, s.session = .unloaded → s'.session = .unloaded → s.cfg = s'.cfg →
    s.imageChannel.length = s'.imageChannel.length → 16 ≤ s.imageChannel.length →
    (s.cfg.checkMagic = true → s.imageChannel.take 4 = s'.imageChannel.take 4) →
    (∀ o ∈ [s.cfg.hdrPrgCountOff, s.cfg.hdrChrCountOff, s.cfg.hdrFlags6Off,
      s.cfg.hdrFlags7Off], s.imageChannel[o.val]? = s'.imageChannel[o.val]?) →
    ∃ t t' st, exec .init s = .next t ∧ exec .init s' = .next t' ∧
      t.responses = ⟨.host, st⟩ :: s.responses ∧ t'.responses = ⟨.host, st⟩ :: s'.responses

/-! WRITE. -/

/-- A write is claimed exactly when `0x7FFF < address < 0x10000`; for a 16-bit address that is
bit 15 of the address, which is bit 23 of the command word; bits 14:0 take no part in what a
WRITE does; an address at or above 0x10000 is not claimed and not reduced (41 R126, R133,
30 R68). -/
def Obligations.ComparatorIsExact : Prop :=
  (∀ (v : Variant) (n : Nat), claims v n = true ↔ 0x7FFF < n ∧ n < 0x10000) ∧
  (∀ (v : Variant) (a : Addr), claims v a.toNat = a.getLsbD 15) ∧
  (∀ (a : Addr) (d : Byte), (encode (.write a d)).getLsbD 23 = a.getLsbD 15) ∧
  (∀ (s : State) (a a' : Addr) (d : Byte), a.getLsbD 15 = a'.getLsbD 15 →
    exec (.write a d) s = exec (.write a' d) s) ∧
  (∀ (v : Variant) (n : Nat), 0x10000 ≤ n → claims v n = false)

/-- An unclaimed WRITE in a session returns `Ignored`, without a trace event, and changes no
state element (41 R127). -/
def Obligations.UnclaimedWriteIsIgnored : Prop :=
  ∀ (s : State) (r : SessionRegs) (a : Addr) (d : Byte), s.session = .loaded r →
    a.toNat ≤ 0x7FFF →
    exec (.write a d) s = .next { s with responses := ⟨.cpu, .ok .ignored⟩ :: s.responses }

/-- A claimed WRITE in a session, as one step: `idx = data & (G - 1)`; the surface holds exactly
the 8192 image bytes from `16 + N*16384 + idx*8192` on; `sel`, `dirty`, the trace and the result
follow; the image, the counts, the parameters, the inputs and every address outside the surface
stay (41 R128, R130, R131). -/
def Obligations.ClaimedWriteSwitchesBank : Prop :=
  ∀ (s : State) (r : SessionRegs) (a : Addr) (d : Byte), s.Inv → s.session = .loaded r →
    0x8000 ≤ a.toNat →
    ∃ surf, exec (.write a d) s = .next { s with
        session := .loaded { r with
          sel := d &&& (r.chrCount - 1#8)
          surf := surf
          dirty := if s.cfg.hasDirty then some true else r.dirty }
        trace := (d &&& (r.chrCount - 1#8)) :: s.trace
        responses := ⟨.cpu, .ok (.switched (d &&& (r.chrCount - 1#8)))⟩ :: s.responses } ∧
      (∀ i, i < 8192 → ∃ b,
        r.rom[16 + r.prgCount.toNat * 16384 + (d &&& (r.chrCount - 1#8)).toNat * 8192 + i]? =
          some b ∧ Memory.read surf i = some b) ∧
      ∀ x, 8192 ≤ x → Memory.read surf x = Memory.read r.surf x

/-- A claimed WRITE twice leaves the surface and `sel` of the first, returns the same `Switched`
again and leaves `dirty` set; and what it leaves depends on the data, `G`, `chr_base` and the
image only, not on the address in the range or on the earlier bank (20 R48). -/
def Obligations.ClaimedWriteIsIdempotent : Prop :=
  (∀ (s t : State) (r : SessionRegs) (a : Addr) (d : Byte), s.Inv → s.session = .loaded r →
    0x8000 ≤ a.toNat → exec (.write a d) s = .next t →
    ∃ u idx q q', exec (.write a d) t = .next u ∧ t.session = .loaded q ∧
      u.session = .loaded q' ∧ q'.surf = q.surf ∧ q'.sel = q.sel ∧
      t.responses = ⟨.cpu, .ok (.switched idx)⟩ :: s.responses ∧
      u.responses = ⟨.cpu, .ok (.switched idx)⟩ :: t.responses ∧
      (s.cfg.hasDirty = true → q.dirty = some true ∧ q'.dirty = some true)) ∧
  (∀ (s s' t : State) (r r' : SessionRegs) (a a' : Addr) (d : Byte),
    s.session = .loaded r → s'.session = .loaded r' → 0x8000 ≤ a.toNat → 0x8000 ≤ a'.toNat →
    r.chrCount = r'.chrCount → r.chrBase = r'.chrBase → r.rom = r'.rom →
    exec (.write a d) s = .next t →
    ∃ t' q q', exec (.write a' d) s' = .next t' ∧ t.session = .loaded q ∧
      t'.session = .loaded q' ∧ q.surf = q'.surf ∧ q.sel = q'.sel)

/-- The bank index is `data & (G - 1)`; for `G = 2^k` it is the low `k` bits of the data; and a
bank number can be selected exactly when its set bits are set bits of `G - 1` (30 R67). -/
def Obligations.MaskAndSelect : Prop :=
  (∀ (v : Variant) (d g : Byte), v.select d g = d &&& (g - 1#8)) ∧
  (∀ (v : Variant) (d g : Byte) (k : Nat), k ≤ 7 → g.toNat = 2 ^ k →
    (v.select d g).toNat = d.toNat % 2 ^ k) ∧
  (∀ (v : Variant) (g b : Byte), (∃ d, v.select d g = b) ↔ b &&& (g - 1#8) = b)

/-- The selected index is below `G`, so every bank that can be selected lies inside the image,
and the last byte of the last bank is the last byte of the image (10 R32, 20 R52, 41 R130). -/
def Obligations.EverySelectableBankIsInTheImage : Prop :=
  ∀ (s : State) (r : SessionRegs), s.Inv → s.session = .loaded r →
    (∀ (d : Byte), (r.variant.select d r.chrCount).toNat < r.chrCount.toNat ∧
      ∀ i, i < 8192 →
        16 + r.prgCount.toNat * 16384 + (r.variant.select d r.chrCount).toNat * 8192 + i <
          r.rom.length) ∧
    r.chrBase.toNat + (r.chrCount.toNat - 1) * 8192 + 8191 = r.rom.length - 1

/-- The write enables: `we_sel` and `we_surf` are `LOADED and claimed`; they are the same
signal; and apart from INIT in the UNLOADED state and RESET, `sel` and the surface change only
under a WRITE whose enable is set, and the image never (41 R129). -/
def Obligations.WriteEnablesGateTheSwitch : Prop :=
  (∀ (s : State) (a : Addr),
    weSel s a = (s.isLoaded && decide (0x8000 ≤ a.toNat)) ∧ weSurf s a = weSel s a) ∧
  (∀ (i : Instr) (s t : State) (r q : SessionRegs), exec i s = .next t →
    s.session = .loaded r → t.session = .loaded q →
    q.rom = r.rom ∧ (q.sel ≠ r.sel ∨ q.surf ≠ r.surf →
      ∃ a d, i = .write a d ∧ weSel s a = true ∧ weSurf s a = true))

/-- The pseudocode's loop of 8192 byte writes over any surface in canonical form leaves the same
memory as the copy in one piece (41 R120, R131). -/
def Obligations.CopyLoopEqualsCopy : Prop :=
  ∀ (m : Memory) (bytes : List Byte), m.wf = true → Memory.below bytes.length m = true →
    Memory.writeLoop m 0 bytes = Memory.ofBytes 0 bytes

/-! READ and DIRTYQ. -/

/-- A READ at 8192 or above in a session returns `OutOfRange` with the offset and the size, no
data, and changes nothing (42 R151, 60 R183). -/
def Obligations.ReadOutOfRange : Prop :=
  ∀ (s : State) (r : SessionRegs) (o : Addr), s.session = .loaded r → 8192 ≤ o.toNat →
    exec (.read o) s =
      .next { s with responses := ⟨.display, .outOfRange o.toNat 8192⟩ :: s.responses }

/-- A READ below 8192 in a session returns the surface byte, which is the byte
`ROM(chr_base + sel*8192 + off)`, and has no side effect (42 R152, 10 R33). -/
def Obligations.ReadReturnsSurfaceByte : Prop :=
  ∀ (s : State) (r : SessionRegs) (o : Addr), s.Inv → s.session = .loaded r → o.toNat < 8192 →
    ∃ b, Memory.read r.surf o.toNat = some b ∧
      r.rom[r.chrBase.toNat + r.sel.toNat * 8192 + o.toNat]? = some b ∧
      exec (.read o) s =
        .next { s with responses := ⟨.display, .ok (.data b)⟩ :: s.responses }

/-- A READ that returns `OutOfRange` is recoverable: the session continues, and every run from
the state it leaves does what it would have done without that READ (42 R154). -/
def Obligations.OutOfRangeReadIsRecoverable : Prop :=
  ∀ (k : Nat) (s t u : State) (r : SessionRegs) (o : Addr), s.session = .loaded r →
    8192 ≤ o.toNat → exec (.read o) s = .next t →
    Host.Core.run Sys2Proof.core k s = .next u →
    t.session = s.session ∧
    ∃ (u' : State) (new : List Response), Host.Core.run Sys2Proof.core k t = .next u' ∧
      u'.session = u.session ∧ u'.trace = u.trace ∧ u'.pending = u.pending ∧
      u'.imageChannel = u.imageChannel ∧ u'.cfg = u.cfg ∧
      u.responses = new ++ s.responses ∧ u'.responses = new ++ t.responses

/-- DIRTYQ: `IllegalCommand` where the feature is absent; in a session it returns `dirty` and
clears it, and changes nothing else (42 R156). -/
def Obligations.DirtyqReadsAndClears : Prop :=
  encode .dirtyq = 0x40000000#32 ∧ Instr.dirtyq.port = .display ∧
  (∀ s : State, s.cfg.hasDirty = false →
    exec .dirtyq s = .next { s with
      responses := ⟨.display, .illegalCommand 0x40000000#32⟩ :: s.responses }) ∧
  (∀ s : State, s.cfg.hasDirty = true → s.session = .unloaded →
    exec .dirtyq s = .next { s with responses := ⟨.display, .noSession⟩ :: s.responses }) ∧
  (∀ (s : State) (r : SessionRegs), s.Inv → s.cfg.hasDirty = true → s.session = .loaded r →
    ∃ v, r.dirty = some v ∧ exec .dirtyq s = .next { s with
      session := .loaded { r with dirty := some false }
      responses := ⟨.display, .ok (.bit v)⟩ :: s.responses })

/-- In a session DIRTYQ returns 1 exactly when an INIT that succeeded or a `Switched` WRITE was
answered after the last DIRTYQ of the session (42 R157). -/
def Obligations.DirtyqReportsChangeSinceQuery : Prop :=
  ∀ (s : State) (r : SessionRegs), s.RecordInv → s.session = .loaded r →
    s.cfg.hasDirty = true →
    ∃ t, exec .dirtyq s = .next t ∧ t.responses =
      ⟨.display, .ok (.bit (changedSinceQuery s.responses))⟩ :: s.responses

/-! Rules about all commands. -/

/-- A command that returns an error status has changed no state element (60 R186). -/
def Obligations.ErrorsArePrecise : Prop :=
  ∀ (i : Instr) (s t : State), exec i s = .next t →
    ∃ st, t.responses = ⟨i.port, st⟩ :: s.responses ∧
      (st.isError = true → t = { s with responses := ⟨i.port, st⟩ :: s.responses })

/-- Which status codes a command can return: the column "Raised by" of 60 R180. -/
def Obligations.StatusesByCommand : Prop :=
  ∀ (i : Instr) (s t : State), exec i s = .next t →
    ∃ st, t.responses = ⟨i.port, st⟩ :: s.responses ∧ st.code ∈ i.statusCodes s.cfg.hasDirty

/-- A WRITE that returns `Switched(idx)` emits the one trace event `Switch(idx)`; no other
command, and no other status, emits one; and the trace output has no effect on any state
(60 R203). -/
def Obligations.OnlySwitchedEmitsTrace : Prop :=
  ∀ (i : Instr) (s t : State), exec i s = .next t →
    (∀ idx, t.responses = ⟨i.port, .ok (.switched idx)⟩ :: s.responses →
      (∃ a d, i = .write a d) ∧ t.trace = idx :: s.trace) ∧
    ((∀ idx, t.responses ≠ ⟨i.port, .ok (.switched idx)⟩ :: s.responses) → t.trace = s.trace) ∧
    ∀ tr : List Byte, ∃ u, exec i { s with trace := tr } = .next u ∧
      { u with trace := t.trace } = t

/-- The parameters, the image channel and the pending commands are inputs: no command's own
effect writes them (00 R6, 30 R69, 20 R40). -/
def Obligations.CommandsLeaveInputsAlone : Prop :=
  ∀ (i : Instr) (s t : State), exec i s = .next t →
    t.cfg = s.cfg ∧ t.imageChannel = s.imageChannel ∧ t.pending = s.pending

/-- The display port is read-only: READ and DIRTYQ leave every surface byte, the selected bank,
the image and the header fields as they were, and emit no trace (20 R53, 42 R159). -/
def Obligations.DisplayPortIsReadOnly : Prop :=
  ∀ (i : Instr) (s t : State), i.port = .display → exec i s = .next t →
    t.trace = s.trace ∧ (∀ x, Memory.read t.surf x = Memory.read s.surf x) ∧
    ((s.session = .unloaded ∧ t.session = .unloaded) ∨
      ∃ r v, s.session = .loaded r ∧ t.session = .loaded { r with dirty := v } ∧
        ((∃ o, i = .read o) → v = r.dirty))

/-- Within a session the image, the variant, the mapper-id, the counts and `chr_base` never
change (10 R23 to R27, 41 R123). -/
def Obligations.SessionConstantsNeverChange : Prop :=
  ∀ (s t : State) (r q : SessionRegs), step s = .next t → s.session = .loaded r →
    t.session = .loaded q →
    q.rom = r.rom ∧ q.variant = r.variant ∧ q.mapperId = r.mapperId ∧
      q.prgCount = r.prgCount ∧ q.chrCount = r.chrCount ∧ q.chrBase = r.chrBase

/-! Invariants and whole-machine results. -/

/-- Every step keeps the session invariant (10 R23 to R33). -/
def Obligations.StepKeepsSessionInvariant : Prop :=
  ∀ s t : State, s.Inv → step s = .next t → t.Inv

/-- Every step keeps the agreement of the output record with the state: the trace is the list of
`Switched` indices, and `session`, `sel` and `dirty` are what the answered commands made them
(10 R22, R28, R30, 42 R157, 60 R203). -/
def Obligations.StepKeepsRecord : Prop :=
  ∀ s t : State, s.RecordInv → step s = .next t → t.RecordInv

/-- In every LOADED state that meets the invariant, every surface byte is
`ROM(chr_base + sel*8192 + i)`, the surface has exactly the offsets 0 to 8191, and it is in
canonical form (10 R33, R29, 20 R52). -/
def Obligations.SurfaceIsTheSelectedBank : Prop :=
  ∀ (s : State) (r : SessionRegs), s.Inv → s.session = .loaded r →
    (∀ i, i < 8192 → ∃ b, Memory.read r.surf i = some b ∧
      r.rom[r.chrBase.toNat + r.sel.toNat * 8192 + i]? = some b) ∧
    (∀ i, 8192 ≤ i → Memory.read r.surf i = none) ∧ r.surf.wf = true

/-- What a run records as a fault: the statuses `NoSession`, `SessionActive` and
`IllegalCommand`, and no other status, `OutOfRange` and every `Ok` among those that are not
recorded; nothing is recorded at power-on; a step that returns a status records exactly whether
that status is one of the three, on top of what was recorded, so that a recorded fault stays;
and a step without a command records nothing (93 I7, I8, I13; the model's form, log 7). -/
def Obligations.RecordedFaultsStay : Prop :=
  (∀ st : Status, st.isProtocolFault = true ↔
    st = .noSession ∨ st = .sessionActive ∨ ∃ w, st = .illegalCommand w) ∧
  (∀ (o z : Nat) (x : Result), (Status.outOfRange o z).isProtocolFault = false ∧
    (Status.ok x).isProtocolFault = false) ∧
  State.reset.recordsFault = false ∧
  (∀ (s t : State) (r : Request) (rest : List Request),
    s.pending = r :: rest → step s = .next t →
    ∃ st, t.responses = ⟨r.port, st⟩ :: s.responses ∧
      t.recordsFault = (s.recordsFault || st.isProtocolFault)) ∧
  (∀ s t : State, s.pending = [] → step s = .next t → t.recordsFault = s.recordsFault)

/-- An image laid out as 30 R74 says (header, program banks, graphics banks, no padding) with a
header that fits it is accepted, and after a claimed WRITE of `d` the surface is byte for byte
the graphics bank numbered `d & (G - 1)` (30 R74, 20 R42, 40 R110, 41 R131). -/
def Obligations.LaidOutImageIsServedBankByBank : Prop :=
  ∀ (s : State) (header : List Byte) (prg chr : List (List Byte)) (n g f6 f7 : Byte) (a : Addr)
    (d : Byte),
    s.session = .unloaded → s.imageChannel = layoutImage header prg chr →
    header.length = 16 → (s.cfg.checkMagic = true → header.take 4 = magic) →
    header[s.cfg.hdrPrgCountOff.val]? = some n → header[s.cfg.hdrChrCountOff.val]? = some g →
    header[s.cfg.hdrFlags6Off.val]? = some f6 → header[s.cfg.hdrFlags7Off.val]? = some f7 →
    s.cfg.cnromMapperId =
      (if s.cfg.mapperIdUsesFlags7 then (f7 &&& 0xF0#8) ||| (f6 >>> 4) else f6 >>> 4) →
    prg.length = n.toNat → chr.length = g.toNat →
    (∀ p ∈ prg, p.length = 16384) → (∀ c ∈ chr, c.length = 8192) →
    g ≠ 0#8 → (s.cfg.npotPolicy = .reject → g &&& (g - 1#8) = 0#8) → 0x8000 ≤ a.toNat →
    ∃ t u bank, exec .init s = .next t ∧ exec (.write a d) t = .next u ∧
      chr[(d &&& (g - 1#8)).toNat]? = some bank ∧
      ∀ i, i < 8192 → Memory.read u.surf i = bank[i]?

/-- Reads bracketed by DIRTYQ: if `dirty` is clear at the start and at the end of a run, and no
DIRTYQ was answered in between, then every state on the way shows the same surface (70 R224). -/
def Obligations.BracketedReadsSeeOneBank : Prop :=
  ∀ (k : Nat) (s t : State) (r q : SessionRegs) (new : List Response),
    s.cfg.hasDirty = true → s.session = .loaded r → r.dirty = some false →
    Host.Core.run Sys2Proof.core k s = .next t → t.session = .loaded q →
    q.dirty = some false → t.responses = new ++ s.responses →
    (∀ x ∈ new, x.answersQuery = false) →
    ∀ j, j ≤ k → ∃ u : State, Host.Core.run Sys2Proof.core j s = .next u ∧ u.surf = s.surf

/-! The assembler. -/

/-- The lines as commands, their numbers read. Every line that assembles gives a word that
decodes to its command, on the port of that command. `write` and `read` with operands in range
assemble, and the operands of the command are the numbers written; out of range they are an error
and no command. `reset` and `dirtyq` assemble. `init` presents the image that is bound to its
name. `select b` is `write 0x8000, b` (30 R69, R72, R73). That the first binding of a name counts,
that a name without a binding is an error, and that `reset` presents the empty image are the
model's choices (log 13). -/
def Obligations.AssembledLinesDecode : Prop :=
  (∀ (images : ImageTable) (x : Source) (r : Request), x.assemble images = .ok r →
    ∃ i, x.toInstr = .ok i ∧ decode true r.word = .ok i ∧ r.port = i.port) ∧
  (∀ (images : ImageTable) (a d : Nat), a ≤ 0xFFFF → d ≤ 0xFF →
    ∃ (x : Addr) (y : Byte), x.toNat = a ∧ y.toNat = d ∧
      (Source.write a d).toInstr = .ok (.write x y) ∧
      (Source.write a d).assemble images = .ok (.cpu (encode (.write x y)))) ∧
  (∀ (images : ImageTable) (o : Nat), o ≤ 0xFFFF →
    ∃ x : Addr, x.toNat = o ∧ (Source.read o).toInstr = .ok (.read x) ∧
      (Source.read o).assemble images = .ok (.display (encode (.read x)))) ∧
  (∀ images : ImageTable, Source.reset.assemble images = .ok (.host 0x00000000#32 []) ∧
    Source.dirtyq.assemble images = .ok (.display 0x40000000#32)) ∧
  (∀ (before after : ImageTable) (name : List Char) (img : List Byte),
    (∀ p ∈ before, p.1 ≠ name) →
    (Source.init name).assemble (before ++ (name, img) :: after) =
      .ok (.host 0x10000000#32 img)) ∧
  (∀ (images : ImageTable) (name : List Char), (∀ p ∈ images, p.1 ≠ name) →
    (Source.init name).assemble images = .error .unboundImage) ∧
  (∀ (images : ImageTable) (b : Nat),
    (Source.select b).assemble images = (Source.write 0x8000 b).assemble images) ∧
  (∀ b, b ≤ 0xFF → ∃ d : Byte, d.toNat = b ∧ (Source.select b).toInstr = .ok (.write 0x8000#16 d)) ∧
  (∀ a d, 0xFFFF < a ∨ 0xFF < d → (Source.write a d).toInstr = .error .outOfRange ∧
    ∀ images : ImageTable, (Source.write a d).assemble images = .error .outOfRange) ∧
  (∀ o, 0xFFFF < o → (Source.read o).toInstr = .error .outOfRange ∧
    ∀ images : ImageTable, (Source.read o).assemble images = .error .outOfRange) ∧
  (∀ b, 0xFF < b → (Source.select b).toInstr = .error .outOfRange ∧
    ∀ images : ImageTable, (Source.select b).assemble images = .error .outOfRange)

/-- A number written in decimal, or in hexadecimal with `0x` and digits of either case, is read
as that number (30 R72; that both cases are read is the model's choice, log 6). -/
def Obligations.NumbersReadAsWritten : Prop :=
  ∀ n : Nat,
    parseNumber (Nat.toDigits 10 n) = .ok n ∧
    parseNumber ('0' :: 'x' :: Nat.toDigits 16 n) = .ok n ∧
    parseNumber ('0' :: 'x' :: (Nat.toDigits 16 n).map Char.toUpper) = .ok n

/-- The text of a command stream. Each form of a line as 30 R72 and R73 print it is the command
it stands for, its words free of blanks, commas, `;` and line ends; a `;` and what follows it on
a line change nothing; and the first line of a text gives the first request, the rest of the text
the others. That any word without those separators is an image name, that blanks and a comma
separate words so, and that a line feed ends a line are the model's choices (log 6), not words of
30 R72 or R73. -/
def Obligations.TextLinesAreCommands : Prop :=
  (parseLine ['r', 'e', 's', 'e', 't'] = .ok (some .reset) ∧
    parseLine ['d', 'i', 'r', 't', 'y', 'q'] = .ok (some .dirtyq)) ∧
  (∀ x : List Char, x ≠ [] → (∀ c ∈ x, c ∉ [' ', '\t', '\r', ',', ';', '\n']) →
    parseLine (['i', 'n', 'i', 't', ' '] ++ x) = .ok (some (.init x)) ∧
    ∀ n : Nat, parseNumber x = .ok n →
      parseLine (['r', 'e', 'a', 'd', ' '] ++ x) = .ok (some (.read n)) ∧
      parseLine (['s', 'e', 'l', 'e', 'c', 't', ' '] ++ x) = .ok (some (.select n)) ∧
      ∀ (y : List Char) (m : Nat), (∀ c ∈ y, c ∉ [' ', '\t', '\r', ',', ';', '\n']) →
        parseNumber y = .ok m →
        parseLine (['w', 'r', 'i', 't', 'e', ' '] ++ x ++ [',', ' '] ++ y) =
          .ok (some (.write n m))) ∧
  (∀ line comment : List Char, parseLine (line ++ ';' :: comment) = parseLine line) ∧
  (∀ (images : ImageTable) (line text : List Char) (x : Source) (r : Request)
    (rs : List Request), '\n' ∉ line → parseLine line = .ok (some x) →
    x.assemble images = .ok r → assemble images text = .ok rs →
    assemble images (line ++ '\n' :: text) = .ok (r :: rs))
end

