-- ==== Sys2Proof/Laws/Assembler.lean ====
section
/-! SUPPORT. What the assembler's functions do: a word of a line, a comment, a line of a text, an
image's name, a number's digits. -/

namespace Sys2Proof.Machine

/-- The word that a character of a line continues: no blank and no comma. -/
theorem tokens_word {w x rest : List Char} (h : ∀ c ∈ x, c ∉ [' ', '\t', '\r', ',']) :
    tokens w (x ++ rest) = tokens (w ++ x) rest := by
  induction x generalizing w with
  | nil => rw [List.nil_append, List.append_nil]
  | cons c x ih =>
    have hc := h c List.mem_cons_self
    simp only [List.mem_cons, List.not_mem_nil, or_false, not_or] at hc
    obtain ⟨h1, h2, h3, h4⟩ := hc
    rw [List.cons_append, tokens.eq_2, if_neg (by simp [h1, h2, h3]), if_neg h4,
      ih fun d hd => h d (List.mem_cons_of_mem c hd), List.append_assoc, List.singleton_append]

/-- A line without `;` has no comment to cut. -/
theorem stripComment_eq_self {line : List Char} (h : ∀ c ∈ line, c ≠ ';') :
    stripComment line = line := by
  simpa [stripComment, List.takeWhile_eq_self_iff] using h

/-- A comment and what precedes it. -/
theorem stripComment_append (line comment : List Char) :
    stripComment (line ++ ';' :: comment) = stripComment line := by
  induction line with
  | nil => simp [stripComment]
  | cons c line ih =>
    simp only [stripComment, List.cons_append, List.takeWhile_cons] at ih ⊢
    split
    · rw [ih]
    · rfl

/-- The first line of a text. -/
theorem splitLines_line {acc line text : List Char} (h : '\n' ∉ line) :
    splitLines acc (line ++ '\n' :: text) = (acc ++ line) :: splitLines [] text := by
  induction line generalizing acc with
  | nil => simp [splitLines]
  | cons c line ih =>
    simp only [List.mem_cons, not_or] at h
    rw [List.cons_append, splitLines.eq_2, if_neg (Ne.symm h.1), ih h.2, List.append_assoc,
      List.singleton_append]

/-- The image of the first binding of a name. -/
theorem lookupImage_append {before after : ImageTable} {name : List Char} {img : List Byte}
    (h : ∀ p ∈ before, p.1 ≠ name) :
    lookupImage (before ++ (name, img) :: after) name = some img := by
  induction before with
  | nil => simp [lookupImage]
  | cons p before ih =>
    rw [List.cons_append, lookupImage, if_neg (Ne.symm (h p List.mem_cons_self)),
      ih fun q hq => h q (List.mem_cons_of_mem p hq)]

/-- A name without a binding. -/
theorem lookupImage_eq_none {images : ImageTable} {name : List Char}
    (h : ∀ p ∈ images, p.1 ≠ name) : lookupImage images name = none := by
  induction images with
  | nil => rfl
  | cons p images ih =>
    rw [lookupImage, if_neg (Ne.symm (h p List.mem_cons_self)),
      ih fun q hq => h q (List.mem_cons_of_mem p hq)]

/-- The digits of a number, one part after the other. -/
theorem digits_append {base acc v : Nat} {x y : List Char} (h : digits base acc x = some v) :
    digits base acc (x ++ y) = digits base v y := by
  induction x generalizing acc with
  | nil =>
    rw [digits, Option.some.injEq] at h
    rw [List.nil_append, h]
  | cons c x ih =>
    rw [List.cons_append, digits]
    rw [digits] at h
    cases hc : digitValue base c with
    | none => rw [hc] at h; cases h
    | some d => rw [hc] at h; exact ih h

end Sys2Proof.Machine
end

