-- ==== Sys2Proof/Laws/Encoding.lean ====
section
/-! SUPPORT. The fields of a packed command word (spec/30_encoding.md rule R61). -/

namespace Sys2Proof

/-- Bit `j` of a packed word. -/
theorem getLsbD_packWord (op : BitVec 4) (a : Addr) (d : Byte) {j : Nat} (h : j < 32) :
    (packWord op a d).getLsbD j =
      (!decide (j < 28) && op.getLsbD (j - 28) || !decide (j < 8) && a.getLsbD (j - 8) ||
        d.getLsbD j) := by
  have h28 : j - 28 < 32 := by omega
  have h8 : j - 8 < 32 := by omega
  simp only [packWord, BitVec.getLsbD_or, BitVec.getLsbD_shiftLeft, BitVec.getLsbD_setWidth, h,
    h28, h8, decide_true, Bool.true_and]

theorem opField_packWord (op : BitVec 4) (a : Addr) (d : Byte) :
    opField (packWord op a d) = op := by
  apply BitVec.eq_of_getLsbD_eq
  intro i hi
  have ha : a.getLsbD (28 + i - 8) = false := BitVec.getLsbD_of_ge _ _ (by omega)
  have hd : d.getLsbD (28 + i) = false := BitVec.getLsbD_of_ge _ _ (by omega)
  rw [opField, BitVec.getLsbD_extractLsb', getLsbD_packWord op a d (by omega), ha, hd]
  simp [hi]

theorem rsvField_packWord (op : BitVec 4) (a : Addr) (d : Byte) :
    rsvField (packWord op a d) = 0#4 := by
  apply BitVec.eq_of_getLsbD_eq
  intro i hi
  have ha : a.getLsbD (24 + i - 8) = false := BitVec.getLsbD_of_ge _ _ (by omega)
  have hd : d.getLsbD (24 + i) = false := BitVec.getLsbD_of_ge _ _ (by omega)
  have h : 24 + i < 28 := by omega
  rw [rsvField, BitVec.getLsbD_extractLsb', getLsbD_packWord op a d (by omega), ha, hd]
  simp [h]

theorem a16Field_packWord (op : BitVec 4) (a : Addr) (d : Byte) :
    a16Field (packWord op a d) = a := by
  apply BitVec.eq_of_getLsbD_eq
  intro i hi
  have hd : d.getLsbD (8 + i) = false := BitVec.getLsbD_of_ge _ _ (by omega)
  have h : 8 + i < 28 := by omega
  rw [a16Field, BitVec.getLsbD_extractLsb', getLsbD_packWord op a d (by omega), hd]
  simp [h, hi]

theorem d8Field_packWord (op : BitVec 4) (a : Addr) (d : Byte) :
    d8Field (packWord op a d) = d := by
  apply BitVec.eq_of_getLsbD_eq
  intro i hi
  have h : i < 28 := by omega
  rw [d8Field, BitVec.getLsbD_extractLsb', getLsbD_packWord op a d (by omega)]
  simp [h, hi]

/-- A word is the packing of its fields when its reserved field is zero. -/
theorem packWord_fields {w : Word} (h : rsvField w = 0#4) :
    packWord (opField w) (a16Field w) (d8Field w) = w := by
  apply BitVec.eq_of_getLsbD_eq
  intro i hi
  rw [getLsbD_packWord _ _ _ hi, opField, a16Field, d8Field, BitVec.getLsbD_extractLsb',
    BitVec.getLsbD_extractLsb', BitVec.getLsbD_extractLsb']
  by_cases h8 : i < 8
  · have h28 : i < 28 := by omega
    simp [h8, h28]
  · have e8 : 8 + (i - 8) = i := by omega
    by_cases h24 : i < 24
    · have h28 : i < 28 := by omega
      have l : i - 8 < 16 := by omega
      simp [h8, h28, l, e8]
    · have l : ¬ i - 8 < 16 := by omega
      by_cases h28 : i < 28
      · have hz : (rsvField w).getLsbD (i - 24) = false := by rw [h]; exact BitVec.getLsbD_zero
        have e : 24 + (i - 24) = i := by omega
        have l' : i - 24 < 4 := by omega
        rw [rsvField, BitVec.getLsbD_extractLsb', e] at hz
        simp only [l', decide_true, Bool.true_and] at hz
        simp only [h8, h28, l, hz, decide_true, decide_false, Bool.not_true, Bool.false_and,
          Bool.and_false, Bool.or_false]
      · have e : 28 + (i - 28) = i := by omega
        have l' : i - 28 < 4 := by omega
        simp [h8, h28, l, l', e]

/-- Bits 27:0 of a packed word are zero when its operands are. -/
theorem operandBitsZero_packWord (op : BitVec 4) (a : Addr) (d : Byte) :
    operandBitsZero (packWord op a d) = (a == 0#16 && d == 0#8) := by
  simp [operandBitsZero, rsvField_packWord, a16Field_packWord, d8Field_packWord]

theorem operandBitsZero_iff {w : Word} :
    operandBitsZero w = true ↔ rsvField w = 0#4 ∧ a16Field w = 0#16 ∧ d8Field w = 0#8 := by
  simp [operandBitsZero, and_assoc]

end Sys2Proof
end

