-- ==== Sys2Proof/Laws/Memory.lean ====
section
/-! SUPPORT. The memory operations keep the canonical form, and what a read sees after each. -/

namespace Sys2Proof.Machine

theorem Memory.risingFrom_mono {lo hi : Nat} {m : Memory} (h : lo ≤ hi)
    (hm : Memory.risingFrom hi m = true) : Memory.risingFrom lo m = true := by
  cases m with
  | nil => rfl
  | cons c m =>
    obtain ⟨a, b⟩ := c
    simp only [Memory.risingFrom, Bool.and_eq_true, decide_eq_true_eq] at hm ⊢
    exact ⟨by omega, hm.2⟩

/-- Below its first address a memory lists nothing. -/
theorem Memory.read_eq_none_of_lt {lo x : Nat} {m : Memory}
    (hm : Memory.risingFrom lo m = true) (h : x < lo) : Memory.read m x = none := by
  induction m generalizing lo with
  | nil => rfl
  | cons c m ih =>
    obtain ⟨a, b⟩ := c
    simp only [Memory.risingFrom, Bool.and_eq_true, decide_eq_true_eq] at hm
    have hne : x ≠ a := by omega
    simp only [Memory.read, if_neg hne]
    exact ih hm.2 (by omega)

theorem Memory.write_risingFrom {lo x : Nat} {v : Byte} {m : Memory}
    (hm : Memory.risingFrom lo m = true) (h : lo ≤ x) :
    Memory.risingFrom lo (Memory.write m x v) = true := by
  induction m generalizing lo with
  | nil => simp [Memory.write, Memory.risingFrom, h]
  | cons c m ih =>
    obtain ⟨a, b⟩ := c
    simp only [Memory.risingFrom, Bool.and_eq_true, decide_eq_true_eq] at hm
    simp only [Memory.write]
    split
    · rename_i hlt
      simp only [Memory.risingFrom, Bool.and_eq_true, decide_eq_true_eq]
      exact ⟨h, hlt, hm.2⟩
    · split
      · rename_i heq
        subst heq
        simp only [Memory.risingFrom, Bool.and_eq_true, decide_eq_true_eq]
        exact ⟨h, hm.2⟩
      · simp only [Memory.risingFrom, Bool.and_eq_true, decide_eq_true_eq]
        exact ⟨hm.1, ih hm.2 (by omega)⟩

/-- A write keeps the canonical form. -/
theorem Memory.write_wf {m : Memory} {x : Nat} {v : Byte} (hm : m.wf = true) :
    (Memory.write m x v).wf = true :=
  Memory.write_risingFrom hm (Nat.zero_le x)

theorem Memory.read_write_same (m : Memory) (x : Nat) (v : Byte) :
    Memory.read (Memory.write m x v) x = some v := by
  induction m with
  | nil => simp [Memory.write, Memory.read]
  | cons c m ih =>
    obtain ⟨a, b⟩ := c
    simp only [Memory.write]
    split
    · simp [Memory.read]
    · split
      · simp [Memory.read]
      · rename_i hne
        simp [Memory.read, hne, ih]

theorem Memory.read_write_other {m : Memory} {x y : Nat} {v : Byte} (h : y ≠ x) :
    Memory.read (Memory.write m x v) y = Memory.read m y := by
  induction m with
  | nil => simp [Memory.write, Memory.read, h]
  | cons c m ih =>
    obtain ⟨a, b⟩ := c
    simp only [Memory.write]
    split
    · simp [Memory.read, h]
    · split
      · rename_i heq
        subst heq
        simp [Memory.read, h]
      · simp only [Memory.read, ih]

theorem Memory.ofBytes_risingFrom {lo base : Nat} (bs : List Byte) (h : lo ≤ base) :
    Memory.risingFrom lo (Memory.ofBytes base bs) = true := by
  induction bs generalizing lo base with
  | nil => rfl
  | cons b bs ih =>
    simp only [Memory.ofBytes, Memory.risingFrom, Bool.and_eq_true, decide_eq_true_eq]
    exact ⟨h, ih (Nat.le_refl _)⟩

/-- A copy is in canonical form. -/
theorem Memory.ofBytes_wf (base : Nat) (bs : List Byte) : (Memory.ofBytes base bs).wf = true :=
  Memory.ofBytes_risingFrom bs (Nat.zero_le base)

theorem Memory.read_ofBytes_below {base x : Nat} (bs : List Byte) (h : x < base) :
    Memory.read (Memory.ofBytes base bs) x = none :=
  Memory.read_eq_none_of_lt (Memory.ofBytes_risingFrom bs (Nat.le_refl base)) h

/-- A copy holds byte `i` at `base + i`. -/
theorem Memory.read_ofBytes_add (base i : Nat) (bs : List Byte) :
    Memory.read (Memory.ofBytes base bs) (base + i) = bs[i]? := by
  induction bs generalizing base i with
  | nil => rfl
  | cons b bs ih =>
    cases i with
    | zero => simp [Memory.ofBytes, Memory.read]
    | succ i =>
      have hne : base + (i + 1) ≠ base := by omega
      have hadd : base + (i + 1) = base + 1 + i := by omega
      simp only [Memory.ofBytes, Memory.read, if_neg hne, List.getElem?_cons_succ]
      rw [hadd, ih]

/-- A copy to address 0 holds byte `i` at `i`. -/
theorem Memory.read_ofBytes_zero (i : Nat) (bs : List Byte) :
    Memory.read (Memory.ofBytes 0 bs) i = bs[i]? := by
  simpa using Memory.read_ofBytes_add 0 i bs

theorem Memory.ofBytes_length (base : Nat) (bs : List Byte) :
    (Memory.ofBytes base bs).length = bs.length := by
  induction bs generalizing base with
  | nil => rfl
  | cons b bs ih => simp [Memory.ofBytes, ih]

/-- The copy loop keeps the canonical form. -/
theorem Memory.writeLoop_wf {m : Memory} (base : Nat) (bs : List Byte) (hm : m.wf = true) :
    (Memory.writeLoop m base bs).wf = true := by
  induction bs generalizing m base with
  | nil => exact hm
  | cons b bs ih => exact ih (base + 1) (Memory.write_wf hm)

/-- While UNLOADED, and so at reset, the surface lists nothing, which is in canonical form. -/
theorem reset_surf_wf : State.reset.surf.wf = true := rfl

end Sys2Proof.Machine
end

