-- ==== Sys2Proof/Laws/State.lean ====
section
/-! SUPPORT. One lemma per field and update of the state, so that no proof unfolds a record
update. -/

namespace Sys2Proof.Machine

variable (s : State) (p : Port) (st : Status) (x : Session) (idx : Byte) (w : Word)
  (img : List Byte) (rest : List Request)

@[simp] theorem respond_cfg : (respond p st s).cfg = s.cfg := rfl
@[simp] theorem respond_session : (respond p st s).session = s.session := rfl
@[simp] theorem respond_imageChannel : (respond p st s).imageChannel = s.imageChannel := rfl
@[simp] theorem respond_pending : (respond p st s).pending = s.pending := rfl
@[simp] theorem respond_responses : (respond p st s).responses = ⟨p, st⟩ :: s.responses := rfl
@[simp] theorem respond_trace : (respond p st s).trace = s.trace := rfl
@[simp] theorem respond_surf : (respond p st s).surf = s.surf := rfl
@[simp] theorem respond_isLoaded : (respond p st s).isLoaded = s.isLoaded := rfl

@[simp] theorem setSession_cfg : (s.setSession x).cfg = s.cfg := rfl
@[simp] theorem setSession_session : (s.setSession x).session = x := rfl
@[simp] theorem setSession_imageChannel : (s.setSession x).imageChannel = s.imageChannel := rfl
@[simp] theorem setSession_pending : (s.setSession x).pending = s.pending := rfl
@[simp] theorem setSession_responses : (s.setSession x).responses = s.responses := rfl
@[simp] theorem setSession_trace : (s.setSession x).trace = s.trace := rfl

@[simp] theorem emit_cfg : (s.emit idx).cfg = s.cfg := rfl
@[simp] theorem emit_session : (s.emit idx).session = s.session := rfl
@[simp] theorem emit_imageChannel : (s.emit idx).imageChannel = s.imageChannel := rfl
@[simp] theorem emit_pending : (s.emit idx).pending = s.pending := rfl
@[simp] theorem emit_responses : (s.emit idx).responses = s.responses := rfl
@[simp] theorem emit_trace : (s.emit idx).trace = idx :: s.trace := rfl
@[simp] theorem emit_surf : (s.emit idx).surf = s.surf := rfl

@[simp] theorem accept_cfg (r : Request) : (s.accept r rest).cfg = s.cfg := by cases r <;> rfl
@[simp] theorem accept_session (r : Request) : (s.accept r rest).session = s.session := by
  cases r <;> rfl
@[simp] theorem accept_pending (r : Request) : (s.accept r rest).pending = rest := by
  cases r <;> rfl
@[simp] theorem accept_responses (r : Request) : (s.accept r rest).responses = s.responses := by
  cases r <;> rfl
@[simp] theorem accept_trace (r : Request) : (s.accept r rest).trace = s.trace := by
  cases r <;> rfl
@[simp] theorem accept_host_imageChannel :
    (s.accept (.host w img) rest).imageChannel = img := rfl
@[simp] theorem accept_cpu_imageChannel :
    (s.accept (.cpu w) rest).imageChannel = s.imageChannel := rfl
@[simp] theorem accept_display_imageChannel :
    (s.accept (.display w) rest).imageChannel = s.imageChannel := rfl

theorem surf_of_unloaded {s : State} (h : s.session = .unloaded) : s.surf = [] := by
  simp [State.surf, h]

theorem surf_of_loaded {s : State} {r : SessionRegs} (h : s.session = .loaded r) :
    s.surf = r.surf := by
  simp [State.surf, h]

theorem isLoaded_of_unloaded {s : State} (h : s.session = .unloaded) : s.isLoaded = false := by
  simp [State.isLoaded, h]

theorem isLoaded_of_loaded {s : State} {r : SessionRegs} (h : s.session = .loaded r) :
    s.isLoaded = true := by
  simp [State.isLoaded, h]

theorem inv_of_unloaded {s : State} (h : s.session = .unloaded) : s.Inv := by
  simp [State.Inv, h]

theorem inv_iff_of_loaded {s : State} {r : SessionRegs} (h : s.session = .loaded r) :
    s.Inv ↔ r.Inv s.cfg := by
  simp [State.Inv, h]

end Sys2Proof.Machine
end

