-- ==== Sys2Proof/Laws/Ops.lean ====
section
/-! SUPPORT. What each shared operation can answer: one lemma per operation, for callers to cite
instead of unfolding it. -/

namespace Sys2Proof.Machine

theorem romSlice_eq_some_iff {rom : List Byte} {off size : Nat} {bs : List Byte} :
    romSlice rom off size = some bs ↔
      off + size ≤ rom.length ∧ bs = (rom.drop off).take size := by
  unfold romSlice
  split <;> simp_all [eq_comm]

/-- A bank copy answers exactly when the bank lies inside the image. -/
theorem bankCopy_eq_some_iff {v : Variant} {rom : List Byte} {off : Nat} {m : Memory} :
    bankCopy v rom off = some m ↔
      off + v.bankSize ≤ rom.length ∧
        m = Memory.ofBytes 0 ((rom.drop off).take v.bankSize) := by
  simp only [bankCopy, Option.map_eq_some_iff, romSlice_eq_some_iff]
  constructor
  · rintro ⟨bs, ⟨h, rfl⟩, rfl⟩
    exact ⟨h, rfl⟩
  · rintro ⟨h, rfl⟩
    exact ⟨_, ⟨h, rfl⟩, rfl⟩

/-- The copied surface holds byte `off + i` of the image at `i`, and nothing from the bank size
on. -/
theorem bankCopy_read {v : Variant} {rom : List Byte} {off : Nat} {m : Memory}
    (h : bankCopy v rom off = some m) (i : Nat) :
    Memory.read m i = if i < v.bankSize then rom[off + i]? else none := by
  obtain ⟨-, rfl⟩ := bankCopy_eq_some_iff.mp h
  rw [Memory.read_ofBytes_zero, List.getElem?_take]
  split
  · rw [List.getElem?_drop]
  · rfl

theorem bankCopy_wf {v : Variant} {rom : List Byte} {off : Nat} {m : Memory}
    (h : bankCopy v rom off = some m) : m.wf = true := by
  obtain ⟨-, rfl⟩ := bankCopy_eq_some_iff.mp h
  exact Memory.ofBytes_wf 0 _

theorem bankCopy_isSome {v : Variant} {rom : List Byte} {off : Nat}
    (h : off + v.bankSize ≤ rom.length) : ∃ m, bankCopy v rom off = some m :=
  ⟨_, bankCopy_eq_some_iff.mpr ⟨h, rfl⟩⟩

theorem variantOfId_eq_some_iff {cfg : Config} {id : Byte} {v : Variant} :
    variantOfId cfg id = some v ↔ id = v.id cfg := by
  cases v
  simp [variantOfId]

/-- `chr_base` at 23 bits loses nothing: the largest is 4,177,936. -/
theorem chrBaseOf_toNat (v : Variant) (n : Byte) : (chrBaseOf v n).toNat = v.regionBase n := by
  have h := n.isLt
  cases v
  simp only [chrBaseOf, Variant.regionBase, headerSize, prgBankSize, BitVec.toNat_ofNat]
  omega

/-- Masking with `G - 1` never gives an index above `G - 1` (10 R32). -/
theorem select_lt {v : Variant} {d g : Byte} (h : g ≠ 0#8) :
    (v.select d g).toNat < g.toNat := by
  cases v
  have hg : 0 < g.toNat := by
    rcases Nat.eq_zero_or_pos g.toNat with h0 | h0
    · exact absurd (BitVec.eq_of_toNat_eq (by simpa using h0)) h
    · exact h0
  have hle : (d &&& (g - 1#8)).toNat ≤ (g - 1#8).toNat := by
    rw [BitVec.toNat_and]
    exact Nat.and_le_right
  have hsub : (g - 1#8).toNat = g.toNat - 1 := by
    have := g.isLt
    rw [BitVec.toNat_sub]
    simp only [BitVec.toNat_ofNat]
    omega
  simp only [Variant.select]
  omega

theorem checkCounts_ok_iff {v : Variant} {cfg : Config} {h : Header} :
    v.checkCounts cfg h = .ok () ↔
      h.chrCount ≠ 0#8 ∧ (cfg.npotPolicy = .reject → maskable h.chrCount = true) := by
  cases v
  simp only [Variant.checkCounts]
  split
  · simp_all
  · split
    · simp_all
    · simp_all

theorem checkHeader_ok_iff {cfg : Config} {len : Nat} {h : Header} {v : Variant} :
    checkHeader cfg len h = .ok v ↔
      len = imageLength h.prgCount h.chrCount ∧ h.mapperId = v.id cfg ∧
        h.chrCount ≠ 0#8 ∧ (cfg.npotPolicy = .reject → maskable h.chrCount = true) := by
  have hv : v = .cnrom := by cases v; rfl
  subst hv
  unfold checkHeader
  by_cases hlen : len = imageLength h.prgCount h.chrCount
  · rw [if_neg (not_not.mpr hlen)]
    by_cases hid : h.mapperId = Variant.id cfg .cnrom
    · rw [variantOfId_eq_some_iff.mpr hid]
      rcases hc : Variant.checkCounts .cnrom cfg h with e | u
      · simp only [hc, hlen, hid, true_and, reduceCtorEq, false_iff]
        intro hok
        simp [checkCounts_ok_iff.mpr hok] at hc
      · simp only [hc, hlen, hid, true_and, true_iff]
        exact checkCounts_ok_iff.mp hc
    · have hn : variantOfId cfg h.mapperId = none := by simp [variantOfId, hid]
      simp [hn, hid]
  · rw [if_pos hlen]
    simp [hlen]

/-- INIT's checks pass exactly on the images of 70 R222. -/
theorem checkImage_ok_iff {cfg : Config} {img : List Byte} {v : Variant} {hd : Header} :
    checkImage cfg img = .ok (v, hd) ↔
      ∃ h : headerSize ≤ img.length,
        (cfg.checkMagic = true → img.take 4 = magic) ∧ hd = readHeader cfg img h ∧
          img.length = imageLength hd.prgCount hd.chrCount ∧ hd.mapperId = v.id cfg ∧
          hd.chrCount ≠ 0#8 ∧ (cfg.npotPolicy = .reject → maskable hd.chrCount = true) := by
  unfold checkImage
  by_cases h : headerSize ≤ img.length
  · rw [dif_pos h]
    by_cases hm : cfg.checkMagic = true ∧ img.take 4 ≠ magic
    · rw [if_pos hm]
      simp only [reduceCtorEq, false_iff]
      rintro ⟨-, hmag, -⟩
      exact hm.2 (hmag hm.1)
    · rw [if_neg hm]
      have hmag : cfg.checkMagic = true → img.take 4 = magic := fun hc =>
        Classical.byContradiction fun hne => hm ⟨hc, hne⟩
      constructor
      · intro heq
        rcases hh : checkHeader cfg img.length (readHeader cfg img h) with e | v'
        · rw [hh] at heq
          cases heq
        · rw [hh] at heq
          cases heq
          exact ⟨h, hmag, rfl, checkHeader_ok_iff.mp hh⟩
      · intro hex
        obtain ⟨_, _, hhd, hok⟩ := hex
        subst hhd
        rw [checkHeader_ok_iff.mpr hok]
  · rw [dif_neg h]
    simp only [reduceCtorEq, false_iff]
    rintro ⟨h', -⟩
    exact h h'

/-- An accepted image holds its graphics bank 0 (20 R52). -/
theorem checkImage_bank_zero {cfg : Config} {img : List Byte} {v : Variant} {hd : Header}
    (h : checkImage cfg img = .ok (v, hd)) :
    ∃ m, bankCopy v img (chrBaseOf v hd.prgCount).toNat = some m := by
  obtain ⟨-, -, -, hlen, -, hg, -⟩ := checkImage_ok_iff.mp h
  apply bankCopy_isSome
  have hpos : 0 < hd.chrCount.toNat := by
    rcases Nat.eq_zero_or_pos hd.chrCount.toNat with h0 | h0
    · exact absurd (BitVec.eq_of_toNat_eq (by simpa using h0)) hg
    · exact h0
  rw [chrBaseOf_toNat, hlen]
  cases v
  simp only [Variant.regionBase, Variant.bankSize, imageLength, headerSize, prgBankSize,
    chrBankSize]
  omega

/-- Every bank below `G` lies inside the image of a session (20 R52). -/
theorem bank_in_rom {cfg : Config} {r : SessionRegs} (hr : r.Inv cfg) {idx : Byte}
    (hidx : idx.toNat < r.chrCount.toNat) :
    bankOffset r idx + r.variant.bankSize ≤ r.rom.length := by
  rw [hr.romLength, bankOffset, hr.base]
  cases r.variant
  simp only [Variant.regionBase, Variant.bankSize, imageLength, headerSize, prgBankSize,
    chrBankSize]
  omega

theorem busDispatch_eq (r : SessionRegs) (a : Addr) (d : Byte) :
    busDispatch r a d =
      if claims r.variant a.toNat then .switched (r.variant.select d r.chrCount)
      else .ignored := rfl

/-- A status ends a command with one response and nothing else. -/
theorem raise_eq_next_iff {p : Port} {st : Status} {s t : State} :
    raise p st s = .next t ↔ t = respond p st s := by
  simp [raise, eq_comm]

theorem succeed_eq_next_iff {p : Port} {r : Result} {s t : State} :
    succeed p r s = .next t ↔ t = respond p (.ok r) s := by
  simp [succeed, eq_comm]

theorem fetch_nil {s : State} (h : s.pending = []) : fetch s = none := by
  simp [fetch, h]

theorem fetch_cons {s : State} {r : Request} {rest : List Request} (h : s.pending = r :: rest) :
    fetch s = some (r, s.accept r rest) := by
  simp [fetch, h]

end Sys2Proof.Machine
end

