-- ==== Sys2Proof/Laws/PerInstr.lean ====
section
/-! SUPPORT. What holds of every command as syntax: the fields of its word
(spec/30_encoding.md rules R61, R62, R64). -/

/-- The word of the command carries its opcode, its operands, and zero reserved bits. -/
def Sys2Proof.Laws.EncodeFields.Statement (i : Sys2Proof.Instr) : Prop :=
  Sys2Proof.opField (Sys2Proof.encode i) = i.opcode ∧
    Sys2Proof.rsvField (Sys2Proof.encode i) = 0#4 ∧
    Sys2Proof.a16Field (Sys2Proof.encode i) = i.a16 ∧
    Sys2Proof.d8Field (Sys2Proof.encode i) = i.d8

theorem Sys2Proof.Laws.EncodeFields.of_packWord (i : Sys2Proof.Instr) :
    Sys2Proof.Laws.EncodeFields.Statement i :=
  ⟨Sys2Proof.opField_packWord _ _ _, Sys2Proof.rsvField_packWord _ _ _,
    Sys2Proof.a16Field_packWord _ _ _, Sys2Proof.d8Field_packWord _ _ _⟩

theorem Sys2Proof.Laws.EncodeFields.reset : Sys2Proof.Laws.EncodeFields.Statement .reset :=
  Sys2Proof.Laws.EncodeFields.of_packWord _

theorem Sys2Proof.Laws.EncodeFields.init : Sys2Proof.Laws.EncodeFields.Statement .init :=
  Sys2Proof.Laws.EncodeFields.of_packWord _

theorem Sys2Proof.Laws.EncodeFields.write (address : Sys2Proof.Addr) (data : Sys2Proof.Byte) :
    Sys2Proof.Laws.EncodeFields.Statement (.write address data) :=
  Sys2Proof.Laws.EncodeFields.of_packWord _

theorem Sys2Proof.Laws.EncodeFields.read (off : Sys2Proof.Addr) :
    Sys2Proof.Laws.EncodeFields.Statement (.read off) :=
  Sys2Proof.Laws.EncodeFields.of_packWord _

theorem Sys2Proof.Laws.EncodeFields.dirtyq : Sys2Proof.Laws.EncodeFields.Statement .dirtyq :=
  Sys2Proof.Laws.EncodeFields.of_packWord _
end

