-- ==== Sys2Proof/Laws/Step.lean ====
section
/-! SUPPORT. Everything a command can answer with a next state, one inversion lemma per meaning,
and what a step adds around `exec`. -/

namespace Sys2Proof.Machine

theorem execReset_eq (s : State) :
    exec .reset s = .next (respond .host (.ok .resetOk) (s.setSession .unloaded)) := rfl

theorem execInit_next_cases {s t : State} (h : exec .init s = .next t) :
    (∃ r, s.session = .loaded r ∧ t = respond .host .sessionActive s) ∨
    (∃ e, s.session = .unloaded ∧ checkImage s.cfg s.imageChannel = .error e ∧
      t = respond .host e s) ∨
    (∃ v hd m, s.session = .unloaded ∧ checkImage s.cfg s.imageChannel = .ok (v, hd) ∧
      bankCopy v s.imageChannel (chrBaseOf v hd.prgCount).toNat = some m ∧
      t = respond .host (.ok .initOk)
        (s.setSession (.loaded (latchSession s.cfg s.imageChannel v hd m)))) := by
  rcases hs : s.session with _ | r
  · rcases hc : checkImage s.cfg s.imageChannel with e | ⟨v, hd⟩
    · refine .inr (.inl ⟨e, rfl, rfl, ?_⟩)
      simp only [exec, execInit, hs, hc] at h
      exact raise_eq_next_iff.mp h
    · obtain ⟨m, hm⟩ := checkImage_bank_zero hc
      refine .inr (.inr ⟨v, hd, m, rfl, rfl, hm, ?_⟩)
      simp only [exec, execInit, hs, hc, hm] at h
      exact succeed_eq_next_iff.mp h
  · refine .inl ⟨r, rfl, ?_⟩
    simp only [exec, execInit, hs] at h
    exact raise_eq_next_iff.mp h

theorem execWrite_next_cases {s t : State} {a : Addr} {d : Byte}
    (h : exec (.write a d) s = .next t) :
    (s.session = .unloaded ∧ t = respond .cpu .noSession s) ∨
    (∃ r, s.session = .loaded r ∧ claims r.variant a.toNat = false ∧
      t = respond .cpu (.ok .ignored) s) ∨
    (∃ r m, s.session = .loaded r ∧ claims r.variant a.toNat = true ∧
      bankCopy r.variant r.rom (bankOffset r (r.variant.select d r.chrCount)) = some m ∧
      t = respond .cpu (.ok (.switched (r.variant.select d r.chrCount)))
        ((s.setSession (.loaded (switchSession s.cfg r (r.variant.select d r.chrCount) m))).emit
          (r.variant.select d r.chrCount))) := by
  rcases hs : s.session with _ | r
  · refine .inl ⟨rfl, ?_⟩
    simp only [exec, execWrite, hs] at h
    exact raise_eq_next_iff.mp h
  · cases hc : claims r.variant a.toNat with
    | false =>
      refine .inr (.inl ⟨r, rfl, hc, ?_⟩)
      simp only [exec, execWrite, hs, busDispatch_eq, hc, Bool.false_eq_true, if_false] at h
      exact succeed_eq_next_iff.mp h
    | true =>
      simp only [exec, execWrite, hs, busDispatch_eq, hc, if_true] at h
      cases hm : bankCopy r.variant r.rom (bankOffset r (r.variant.select d r.chrCount)) with
      | none => simp [hm] at h
      | some m =>
        refine .inr (.inr ⟨r, m, rfl, hc, hm, ?_⟩)
        simp only [hm] at h
        exact succeed_eq_next_iff.mp h

theorem execRead_next_cases {s t : State} {off : Addr} (h : exec (.read off) s = .next t) :
    (s.session = .unloaded ∧ t = respond .display .noSession s) ∨
    (∃ r, s.session = .loaded r ∧ surfaceSize ≤ off.toNat ∧
      t = respond .display (.outOfRange off.toNat surfaceSize) s) ∨
    (∃ r b, s.session = .loaded r ∧ off.toNat < surfaceSize ∧
      Memory.read r.surf off.toNat = some b ∧ t = respond .display (.ok (.data b)) s) := by
  rcases hs : s.session with _ | r
  · refine .inl ⟨rfl, ?_⟩
    simp only [exec, execRead, hs] at h
    exact raise_eq_next_iff.mp h
  · by_cases ho : surfaceSize ≤ off.toNat
    · refine .inr (.inl ⟨r, rfl, ho, ?_⟩)
      simp only [exec, execRead, hs, ho, if_true] at h
      exact raise_eq_next_iff.mp h
    · simp only [exec, execRead, hs, ho, if_false] at h
      cases hb : Memory.read r.surf off.toNat with
      | none => simp [hb] at h
      | some b =>
        refine .inr (.inr ⟨r, b, rfl, Nat.lt_of_not_le ho, hb, ?_⟩)
        simp only [hb] at h
        exact succeed_eq_next_iff.mp h

theorem execDirtyq_next_cases {s t : State} (h : exec .dirtyq s = .next t) :
    (s.cfg.hasDirty = false ∧ t = respond .display (.illegalCommand dirtyqWord) s) ∨
    (s.cfg.hasDirty = true ∧ s.session = .unloaded ∧ t = respond .display .noSession s) ∨
    (∃ r v, s.cfg.hasDirty = true ∧ s.session = .loaded r ∧ r.dirty = some v ∧
      t = respond .display (.ok (.bit v))
        (s.setSession (.loaded { r with dirty := some false }))) := by
  cases hd : s.cfg.hasDirty with
  | false =>
    refine .inl ⟨rfl, ?_⟩
    simp only [exec, execDirtyq, hd, Bool.false_eq_true, if_false] at h
    exact raise_eq_next_iff.mp h
  | true =>
    rcases hs : s.session with _ | r
    · refine .inr (.inl ⟨rfl, rfl, ?_⟩)
      simp only [exec, execDirtyq, hd, hs, if_true] at h
      exact raise_eq_next_iff.mp h
    · simp only [exec, execDirtyq, hd, hs, if_true] at h
      cases hv : r.dirty with
      | none => simp [hv] at h
      | some v =>
        refine .inr (.inr ⟨r, v, rfl, rfl, hv, ?_⟩)
        simp only [hv] at h
        exact succeed_eq_next_iff.mp h

/-- With no command pending a step does nothing. -/
theorem step_of_no_pending {s : State} (h : s.pending = []) : step s = .next s := by
  simp [step, fetch_nil h, idle]

/-- A step serves the first pending command. -/
theorem step_of_pending {s : State} {r : Request} {rest : List Request}
    (h : s.pending = r :: rest) : step s = serve r (s.accept r rest) := by
  simp [step, fetch_cons h]

/-- Serving a command: an illegal word, a command of another port, or the command's meaning. -/
theorem serve_cases (r : Request) (s : State) :
    (∃ e, decode s.cfg.hasDirty r.word = .error e ∧
      serve r s = .next (respond r.port (.illegalCommand r.word) s)) ∨
    (∃ i, decode s.cfg.hasDirty r.word = .ok i ∧ i.port ≠ r.port ∧
      serve r s = .refused (.wrongPort r.port i)) ∨
    (∃ i, decode s.cfg.hasDirty r.word = .ok i ∧ i.port = r.port ∧ serve r s = exec i s) := by
  rcases hd : decode s.cfg.hasDirty r.word with e | i
  · exact .inl ⟨e, rfl, by simp [serve, hd, execIllegal, raise]⟩
  · by_cases hp : i.port = r.port
    · exact .inr (.inr ⟨i, rfl, hp, by simp [serve, hd, hp]⟩)
    · exact .inr (.inl ⟨i, rfl, hp, by simp [serve, hd, hp]⟩)

/-- A legal command of its own port runs its meaning. -/
theorem serve_of_decode {r : Request} {s : State} {i : Instr}
    (hd : decode s.cfg.hasDirty r.word = .ok i) (hp : i.port = r.port) :
    serve r s = exec i s := by
  simp [serve, hd, hp]

/-- A run begins with a step. -/
theorem run_succ_of_next {k : Nat} {s u : State} (h : step s = .next u) :
    Host.Core.run Sys2Proof.core (k + 1) s = Host.Core.run Sys2Proof.core k u := by
  have hc : Sys2Proof.core.step s = .next u := h
  exact (Host.Core.run.eq_2 Sys2Proof.core s k).trans (by rw [hc])

/-- A run that ends in a next state took its first step. -/
theorem step_of_run_succ {k : Nat} {s t : State}
    (h : Host.Core.run Sys2Proof.core (k + 1) s = .next t) :
    ∃ u, step s = .next u ∧ Host.Core.run Sys2Proof.core k u = .next t := by
  rw [Host.Core.run.eq_2 Sys2Proof.core s k] at h
  cases hs : Sys2Proof.core.step s with
  | next u =>
    rw [hs] at h
    exact ⟨u, hs, h⟩
  | fault f =>
    rw [hs] at h
    cases h
  | refused f =>
    rw [hs] at h
    cases h

/-- A returned status adds its own record to what was recorded (93 I7, I8). -/
@[simp] theorem respond_recordsFault (p : Port) (st : Status) (s : State) :
    (respond p st s).recordsFault = (st.isProtocolFault || s.recordsFault) := rfl

end Sys2Proof.Machine
end

