-- ==== Sys2Proof/Tests/Slice0.lean ====
section
/-! SUPPORT. Tests of one step each, with results from spec/95_test_vectors.md, and for every
statement with hypotheses a witness that meets them. -/

namespace Sys2Proof.Tests

open Sys2Proof.Machine

/-! Small images and states. -/

/-- A 16-byte header with these bytes 4 to 7 (30 R75). -/
def header (n g f6 f7 : Byte) : List Byte :=
  [0x4E#8, 0x45#8, 0x53#8, 0x1A#8, n, g, f6, f7, 0#8, 0#8, 0#8, 0#8, 0#8, 0#8, 0#8, 0#8]

/-- A graphics bank of one constant byte. -/
def bank (b : Byte) : List Byte := List.replicate 8192 b

theorem bank_length (b : Byte) : (bank b).length = 8192 := by
  rw [bank, List.length_replicate]

theorem bank_getElem? (b : Byte) {i : Nat} (h : i < 8192) : (bank b)[i]? = some b := by
  rw [bank, List.getElem?_replicate, if_pos h]

/-- Two graphics banks. -/
def twoBanks : List (List Byte) := [bank 0x11#8, bank 0x22#8]

/-- N = 0, G = 2, mapper 3 (30 R74). -/
def image2 : List Byte := layoutImage (header 0 2 0x30 0) [] twoBanks

/-- Power-on with the image on the host's channel. -/
def presenting (img : List Byte) : State := { State.reset with imageChannel := img }

/-- The session of `image2` with bank `sel` on the surface. -/
def regs2 (sel : Byte) (dirty : Bool) : SessionRegs where
  rom := image2
  variant := .cnrom
  mapperId := 3#8
  prgCount := 0#8
  chrCount := 2#8
  chrBase := 16#23
  sel := sel
  surf := Memory.ofBytes 0 ((image2.drop (16 + sel.toNat * 8192)).take 8192)
  dirty := some dirty

def loaded2 (sel : Byte) (dirty : Bool) : State :=
  { State.reset with session := .loaded (regs2 sel dirty) }

/-- The newest status and port of a step's answer. -/
def answer (o : Host.Outcome State Fault Refusal) : Option Response :=
  match o with
  | .next t => t.responses.head?
  | _ => none

/-- The reason of a refusal. -/
def refusal (o : Host.Outcome State Fault Refusal) : Option Refusal :=
  match o with
  | .refused r => some r
  | _ => none

/-- What stands in the session after a step's answer, the image and the surface apart. -/
def sessionView (o : Host.Outcome State Fault Refusal) :
    Option (Byte × Option Bool × List Byte) :=
  match o with
  | .next t =>
    match t.session with
    | .unloaded => none
    | .loaded r => some (r.sel, r.dirty, t.trace)
  | _ => none

theorem image2_eq : image2 = header 0 2 0x30 0 ++ (bank 0x11#8 ++ bank 0x22#8) := by
  simp only [image2, layoutImage, twoBanks, List.flatten_nil, List.append_nil, List.flatten_cons]

theorem image2_length : image2.length = 16400 := by
  rw [image2_eq, List.length_append, List.length_append, bank_length, bank_length]
  rfl

theorem image2_getElem?_bank0 {i : Nat} (h : i < 8192) : image2[16 + i]? = some 0x11#8 := by
  have hh : (header 0 2 0x30 0).length = 16 := rfl
  rw [image2_eq, List.getElem?_append_right (by omega), hh, Nat.add_sub_cancel_left,
    List.getElem?_append_left (by rw [bank_length]; exact h), bank_getElem? _ h]

theorem image2_getElem?_bank1 {i : Nat} (h : i < 8192) :
    image2[16 + 8192 + i]? = some 0x22#8 := by
  have hh : (header 0 2 0x30 0).length = 16 := rfl
  rw [image2_eq, List.getElem?_append_right (by omega), hh,
    List.getElem?_append_right (by rw [bank_length]; omega), bank_length]
  have e : 16 + 8192 + i - 16 - 8192 = i := by omega
  rw [e, bank_getElem? _ h]

theorem image2_header : ∃ h : headerSize ≤ image2.length,
    readHeader defaultConfig image2 h = ⟨0#8, 2#8, 3#8⟩ :=
  ⟨by rw [image2_length]; decide, rfl⟩

theorem regs2_surface (sel : Byte) (dirty : Bool) (h : sel.toNat < 2) :
    bankCopy (regs2 sel dirty).variant (regs2 sel dirty).rom
      (bankOffset (regs2 sel dirty) (regs2 sel dirty).sel) = some (regs2 sel dirty).surf := by
  have hb : bankOffset (regs2 sel dirty) (regs2 sel dirty).sel = 16 + sel.toNat * 8192 := by
    simp [bankOffset, regs2, Variant.bankSize, chrBankSize]
  have hv : (regs2 sel dirty).variant.bankSize = 8192 := by simp [Variant.bankSize, chrBankSize]
  have hr : (regs2 sel dirty).rom = image2 := by simp only [regs2]
  rw [bankCopy_eq_some_iff, hb, hv, hr, image2_length]
  exact ⟨by omega, by simp only [regs2]⟩

theorem regs2_rom (sel : Byte) (dirty : Bool) : (regs2 sel dirty).rom = image2 := by
  simp only [regs2]

theorem regs2_inv {sel : Byte} {dirty : Bool} (h : sel.toNat < 2) :
    (regs2 sel dirty).Inv defaultConfig where
  romLength := by
    rw [regs2_rom, image2_length]
    simp [imageLength, regs2, headerSize, chrBankSize]
  header := by
    rw [regs2_rom]
    exact image2_header
  magicBytes := by
    intro hc
    cases hc
  mapper := rfl
  banks := by simp [regs2]
  powerOfTwo := by
    intro _
    simp [maskable, regs2]
  base := by simp [regs2, Variant.regionBase, headerSize]
  selected := h
  surface := regs2_surface sel dirty h
  dirtyExists := rfl

/-- Byte 0 of the surface is the selected bank's. -/
theorem regs2_read (dirty : Bool) {i : Nat} (h : i < 8192) :
    Memory.read (regs2 1 dirty).surf i = some 0x22#8 := by
  have hr := bankCopy_read (regs2_surface 1 dirty (by decide)) i
  have hb : bankOffset (regs2 1 dirty) (regs2 1 dirty).sel = 16 + 8192 := by
    simp [bankOffset, regs2, Variant.bankSize, chrBankSize]
  have hv : (regs2 1 dirty).variant.bankSize = 8192 := by simp [Variant.bankSize, chrBankSize]
  have hi : (regs2 1 dirty).rom = image2 := by simp only [regs2]
  rw [hb, hv, hi, if_pos h, image2_getElem?_bank1 h] at hr
  exact hr

theorem image2_checked : checkImage defaultConfig image2 = .ok (.cnrom, ⟨0#8, 2#8, 3#8⟩) := by
  obtain ⟨hl, hh⟩ := image2_header
  refine checkImage_ok_iff.mpr ⟨hl, ?_, hh.symm, image2_length, rfl, by decide, ?_⟩
  · intro hc
    cases hc
  · intro _
    decide

theorem loaded2_inv {sel : Byte} {dirty : Bool} (h : sel.toNat < 2) : (loaded2 sel dirty).Inv :=
  regs2_inv h

theorem image2_wellSized : (presenting image2).PresentsWellSizedImage 0 2 0x30 0 :=
  ⟨rfl, by rw [show (presenting image2).imageChannel = image2 from rfl, image2_length]; omega,
    fun _ => rfl, rfl, rfl, rfl, rfl, image2_length⟩

/-! Decoding: words written out bit by bit from 30 R61, and the vectors of 95 section 2.1. -/

theorem test_decode_reset_bits :
    decode true 0b00000000000000000000000000000000#32 = .ok .reset := by decide

theorem test_decode_init_bits :
    decode true 0b00010000000000000000000000000000#32 = .ok .init := by decide

/-- `0010 0000`, address `1000000000000000`, data `00000110`. -/
theorem test_decode_write_bits :
    decode true 0b00100000100000000000000000000110#32 = .ok (.write 0x8000#16 0x06#8) := by decide

/-- `0011 0000`, offset `0001111111111111`, `00000000`. -/
theorem test_decode_read_bits :
    decode true 0b00110000000111111111111100000000#32 = .ok (.read 0x1FFF#16) := by decide

theorem test_decode_dirtyq_bits :
    decode true 0b01000000000000000000000000000000#32 = .ok .dirtyq := by decide

theorem test_decode_unused_bits :
    decode true 0x2FFFFFFF#32 = .error .unusedBitSet ∧
    decode true 0x301FFF01#32 = .error .unusedBitSet ∧
    decode true 0x40000001#32 = .error .unusedBitSet ∧
    decode true 0x8ABCDEF0#32 = .error .reservedOpcode := by decide

/-- 41 R120, 42 R150: `0x20000000 | address << 8 | data`, `0x30000000 | off << 8`. -/
theorem test_encode_words :
    encode (.write 0xC123#16 0xFD#8) = 0x20C123FD#32 ∧ encode (.read 0x0100#16) = 0x30010000#32 ∧
    encode .init = 0x10000000#32 := by decide

theorem test_decodeTableWord :
    decodeTableWord 32 0x40000000 = some .dirtyq ∧ decodeTableWord 32 0x50000000 = none ∧
    decodeTableWord 64 0 = none := by decide

/-! WellFormed: the one check refuses its ill-formed term. -/

theorem test_wf_refuses_absent_dirtyq :
    Instr.dirtyq.wf false = false ∧ Instr.dirtyq.wf true = true ∧
    (Instr.write 0x0000#16 0xFF#8).wf false = true := by decide

/-! Operands and the comparator. -/

/-- 95 section 2.3, C3, C4, C7, C8 and C9. -/
theorem test_comparator :
    claims .cnrom 0x7FFF = false ∧ claims .cnrom 0x8000 = true ∧ claims .cnrom 0xFFFF = true ∧
    claims .cnrom 0x10000 = false ∧ claims .cnrom 0x18000 = false := by decide

/-- 95 section 2.4, G = 1, 2, 4, 128, 3, 6 and 255. -/
theorem test_mask_and_select :
    Variant.cnrom.select 0xFF 1 = 0 ∧ Variant.cnrom.select 0xFE 2 = 0 ∧
    Variant.cnrom.select 0x06 4 = 2 ∧ Variant.cnrom.select 0x80 128 = 0 ∧
    Variant.cnrom.select 0xFF 128 = 127 ∧ Variant.cnrom.select 0x01 3 = 0 ∧
    Variant.cnrom.select 0x02 6 = 0 ∧ Variant.cnrom.select 0xFF 255 = 254 := by decide

/-- 95 section 2.5, N = 1 with idx = 2 and N = 255 with idx = 127. -/
theorem test_bank_offset :
    bankOffset { regs2 0 true with chrBase := chrBaseOf .cnrom 1 } 2 = 32784 ∧
    bankOffset { regs2 0 true with chrBase := chrBaseOf .cnrom 255 } 127 = 5218320 := by decide

/-- 95 section 0, IMG_J: flag bytes 0x30 and 0x10. -/
theorem test_mapper_id :
    mapperIdOf true 0x30 0x10 = 19 ∧ mapperIdOf false 0x30 0x10 = 3 := by decide

theorem test_memory_write_replaces :
    Memory.write [(1, 7#8), (3, 9#8)] 3 5#8 = [(1, 7#8), (3, 5#8)] ∧
    Memory.write [(1, 7#8), (3, 9#8)] 2 5#8 = [(1, 7#8), (2, 5#8), (3, 9#8)] ∧
    Memory.wf [(3, 9#8), (1, 7#8)] = false := by decide

/-! One command each. -/

/-- 95 section 2.9, X1. -/
theorem test_reset_from_power_on :
    answer (exec .reset State.reset) = some ⟨.host, .ok .resetOk⟩ := by decide

/-- 95 section 2.2, I9: 10 bytes. -/
theorem test_init_truncated :
    answer (exec .init (presenting ((header 1 4 0x30 0).take 10))) =
      some ⟨.host, .malformedImage (.headerTruncated 16 10)⟩ := by decide

/-- 95 section 2.2, I19: the mapper check precedes the check of `G`. -/
theorem test_init_mapper_before_banks :
    answer (exec .init (presenting (header 0 0 0 0))) =
      some ⟨.host, .unsupportedConfiguration (.unknownMapper 0)⟩ ∧
    answer (exec .init (presenting (header 0 0 0x30 0))) =
      some ⟨.host, .unsupportedConfiguration (.zeroGraphicsBanks 0)⟩ := by decide

/-- 95 section 2.2, I10 and the length check before the check of `G` (I8). -/
theorem test_init_length_first :
    answer (exec .init (presenting [])) =
      some ⟨.host, .malformedImage (.headerTruncated 16 0)⟩ ∧
    answer (exec .init (presenting (header 0 0 0 0 ++ [0#8]))) =
      some ⟨.host, .malformedImage (.lengthMismatch 16 17 0 0)⟩ := by decide

/-- 40 R110 on `image2`: bank 0, `dirty` set, no trace event. -/
theorem test_init_succeeds :
    ∃ t r, exec .init (presenting image2) = .next t ∧ t.session = .loaded r ∧ r.sel = 0#8 ∧
      r.dirty = some true ∧ t.trace = [] ∧ t.responses = [⟨.host, .ok .initOk⟩] ∧
      Memory.read r.surf 8191 = some 0x11#8 := by
  obtain ⟨m, hm⟩ := checkImage_bank_zero image2_checked
  have hx : exec .init (presenting image2) =
      .next (respond .host (.ok .initOk) ((presenting image2).setSession
        (.loaded (latchSession defaultConfig image2 .cnrom ⟨0#8, 2#8, 3#8⟩ m)))) := by
    have hc : checkImage (presenting image2).cfg (presenting image2).imageChannel =
      .ok (.cnrom, ⟨0#8, 2#8, 3#8⟩) := image2_checked
    have hu : (presenting image2).session = .unloaded := rfl
    have hm' : bankCopy .cnrom (presenting image2).imageChannel (chrBaseOf .cnrom 0#8).toNat =
      some m := hm
    simp only [exec, execInit, hu, hc, hm', succeed]
    rfl
  refine ⟨_, _, hx, rfl, rfl, rfl, rfl, rfl, ?_⟩
  have hr := bankCopy_read hm 8191
  have hb : (chrBaseOf .cnrom 0#8).toNat = 16 := rfl
  have hv : Variant.cnrom.bankSize = 8192 := rfl
  rw [hv, if_pos (by omega), hb, image2_getElem?_bank0 (by omega)] at hr
  exact hr

/-- 95 section 2.6, W2: the lifecycle check precedes the comparator; S6: 0x7FFF is not claimed. -/
theorem test_write_unloaded_and_unclaimed :
    answer (exec (.write 0x0000 1) State.reset) = some ⟨.cpu, .noSession⟩ ∧
    answer (exec (.write 0x7FFF 0xFF) (loaded2 1 false)) = some ⟨.cpu, .ok .ignored⟩ := by
  decide

/-- 41 R131 with G = 2 and data 0xFD: bank 1, `dirty` set, one trace event. -/
theorem test_write_switches :
    sessionView (exec (.write 0xC123 0xFD) (loaded2 0 false)) =
      some (1#8, some true, [1#8]) := by
  have hr : (regs2 0 false).Inv defaultConfig := regs2_inv (by decide)
  obtain ⟨m, hm⟩ := bankCopy_isSome (bank_in_rom hr (idx := 1#8) (by decide))
  have hs : (loaded2 0 false).session = .loaded (regs2 0 false) := rfl
  have hd : busDispatch (regs2 0 false) 0xC123 0xFD = .switched 1#8 := by decide
  simp only [exec, execWrite, hs, hd, hm, succeed]
  rfl

/-- 95 section 2.7, R4 and R5. -/
theorem test_read_out_of_range :
    answer (exec (.read 0x2000) (loaded2 0 true)) =
      some ⟨.display, .outOfRange 8192 8192⟩ ∧
    answer (exec (.read 0xFFFF) (loaded2 0 true)) =
      some ⟨.display, .outOfRange 65535 8192⟩ := by decide

/-- 42 R152: the byte of the selected bank. -/
theorem test_read_selected_bank :
    answer (exec (.read 0) (loaded2 1 true)) = some ⟨.display, .ok (.data 0x22)⟩ := by
  have hs : (loaded2 1 true).session = .loaded (regs2 1 true) := rfl
  have ho : ¬ surfaceSize ≤ (0 : Addr).toNat := by decide
  have h : Memory.read (regs2 1 true).surf (0 : Addr).toNat = some 0x22#8 :=
    regs2_read true (by decide)
  simp only [exec, execRead, hs, ho, if_false, h, succeed]
  rfl

/-- 95 section 2.8, Q1 and Q5. -/
theorem test_dirtyq_clears :
    answer (exec .dirtyq (loaded2 0 true)) = some ⟨.display, .ok (.bit true)⟩ ∧
    sessionView (exec .dirtyq (loaded2 0 true)) = some (0#8, some false, []) := by decide

theorem test_dirtyq_absent :
    answer (exec .dirtyq { State.reset with cfg := { defaultConfig with hasDirty := false } }) =
      some ⟨.display, .illegalCommand 0x40000000#32⟩ := by decide

/-- 95 program P2, steps 9 and 10, and 60 R195. -/
theorem test_step_illegal_and_wrong_port :
    answer (step { loaded2 0 true with pending := [.cpu 0x21800006#32] }) =
      some ⟨.cpu, .illegalCommand 0x21800006#32⟩ ∧
    refusal (step { loaded2 0 true with pending := [.display 0x20800006#32] }) =
      some (.wrongPort .display (.write 0x8000 6)) := by decide

/-- `withFetchWord` runs its word next. -/
theorem test_withFetchWord :
    answer (step (State.reset.withFetchWord 32 0x30000000)) = some ⟨.display, .noSession⟩ ∧
    answer (step (State.reset.withFetchWord 32 0x10000000)) =
      some ⟨.host, .malformedImage (.headerTruncated 16 0)⟩ := by decide

/-! The assembler: 95 programs P1 and P3. -/

/-- `write 0x8000, 0x06 ; S5` and `select 4`. -/
theorem test_assemble :
    assemble [] ['w', 'r', 'i', 't', 'e', ' ', '0', 'x', '8', '0', '0', '0', ',', ' ', '0', 'x',
        '0', '6', ' ', ';', ' ', 'S', '5', '\n', 's', 'e', 'l', 'e', 'c', 't', ' ', '4'] =
      .ok [.cpu 0x20800006#32, .cpu 0x20800004#32] := by decide

theorem test_assemble_out_of_range :
    assemble [] ['r', 'e', 'a', 'd', ' ', '6', '5', '5', '3', '6'] = .error .outOfRange ∧
    assemble [] ['i', 'n', 'i', 't', ' ', 'A'] = .error .unboundImage := by decide

end Sys2Proof.Tests
end

