-- ==== Sys2Proof/Tests/Witnesses.lean ====
section
/-! SUPPORT. For every statement with hypotheses, a concrete state and operands that meet all of
them together; for a statement with several clauses, one for each clause, at a boundary. -/

namespace Sys2Proof.Tests

open Sys2Proof.Machine

/-- A state that holds the given session and commands under the given parameters. -/
def stateWith (cfg : Config) (x : Session) (pending : List Request) : State :=
  { State.reset with cfg := cfg, session := x, pending := pending }

/-- The parameters with `HAS_DIRTY = false`, `CHECK_MAGIC = true` and `NPOT_POLICY = mask`. -/
def strictConfig : Config :=
  { defaultConfig with hasDirty := false, checkMagic := true, npotPolicy := .mask }

/-- Power-on under `strictConfig` with an image on the channel. -/
def presentingStrict (img : List Byte) : State :=
  { State.reset with cfg := strictConfig, imageChannel := img }

theorem isLoaded_loaded2 (sel : Byte) (d : Bool) : (loaded2 sel d).isLoaded = true := rfl

/-! The command word. -/

theorem witness_DecodeOfEncode :
    Instr.dirtyq.wf true = true ∧ (Instr.write 0xFFFF 0xFF).wf false = true := by decide

theorem witness_EncodeOfDecode :
    decode true 0x20FFFFFF#32 = .ok (.write 0xFFFF 0xFF) ∧
    decode true 0x40000000#32 = .ok .dirtyq := by decide

/-- One word for each of the five clauses, at the boundary of its field. -/
theorem witness_IllegalWordChangesNothing :
    0x5#4 ≤ opField (Request.host 0x50000000#32 []).word ∧
    (opField (Request.host 0x00000001#32 []).word = 0x0#4 ∧
      (Request.host 0x00000001#32 []).word.extractLsb' 0 28 ≠ 0#28) ∧
    (opField (Request.cpu 0x21000000#32).word = 0x2#4 ∧
      (Request.cpu 0x21000000#32).word.extractLsb' 24 4 ≠ 0#4) ∧
    (opField (Request.display 0x30000001#32).word = 0x3#4 ∧
      (Request.display 0x30000001#32).word.extractLsb' 0 8 ≠ 0#8) ∧
    ((presentingStrict []).cfg.hasDirty = false ∧
      (Request.display 0x40000000#32).word = 0x40000000#32) ∧
    (stateWith defaultConfig .unloaded [.cpu 0x21000000#32]).pending =
      .cpu 0x21000000#32 :: [] := by decide

/-! The step, the ports and the order of commands. -/

theorem witness_StepRunsDecodedCommand :
    (stateWith defaultConfig .unloaded [.host 0x10000000#32 [7#8]]).pending =
      .host 0x10000000#32 [7#8] :: [] ∧
    decode true (Request.host 0x10000000#32 [7#8]).word = .ok .init ∧
    Instr.init.port = (Request.host 0x10000000#32 [7#8]).port := by decide

theorem witness_PortTableIsEnforced :
    (stateWith defaultConfig .unloaded [.display 0x20800006#32]).pending =
      .display 0x20800006#32 :: [] ∧
    decode true (Request.display 0x20800006#32).word = .ok (.write 0x8000 6) ∧
    (Instr.write 0x8000 6).port ≠ (Request.display 0x20800006#32).port := by decide

theorem witness_PresentedWordRunsNext :
    State.reset.cfg.hasDirty = defaultConfig.hasDirty ∧
    decodeTableWord 32 0x20800006 = some (.write 0x8000 6) := by decide

theorem witness_IdleStepChangesNothing : State.reset.pending = [] := rfl

/-- Also for LaterCommandsHaveNoInfluence and OutputsHaveNoInfluence. -/
theorem witness_OneStatusPerStep :
    (stateWith defaultConfig .unloaded [.host 0#32 [], .display 0x30000000#32]).pending =
      .host 0#32 [] :: [.display 0x30000000#32] ∧
    ∃ t, step (stateWith defaultConfig .unloaded
      [.host 0#32 [], .display 0x30000000#32]) = .next t := ⟨rfl, _, rfl⟩

theorem witness_GoodStateNeverFaults : (loaded2 1 true).Inv ∧ State.reset.Inv :=
  ⟨loaded2_inv (by decide), trivial⟩

theorem witness_GoodStateAnswersEveryCommand :
    (stateWith defaultConfig (.loaded (regs2 1 true)) [.cpu 0x20800001#32]).Inv ∧
    (∀ i, decode defaultConfig.hasDirty (Request.cpu 0x20800001#32).word = .ok i →
      i.port = (Request.cpu 0x20800001#32).port) := by
  refine ⟨regs2_inv (by decide), ?_⟩
  intro i hi
  have hd : decode defaultConfig.hasDirty (Request.cpu 0x20800001#32).word =
      .ok (.write 0x8000 1) := by decide
  rw [hd] at hi
  cases hi
  rfl

/-! Reset and the session lifecycle. -/

/-- Also for PowerOnState. -/
theorem witness_ResetEndsSession : ∃ t, exec .reset (loaded2 1 true) = .next t := ⟨_, rfl⟩

theorem witness_LifecycleStatuses :
    State.reset.session = .unloaded ∧ State.reset.cfg.hasDirty = true ∧
    (loaded2 0 true).session = .loaded (regs2 0 true) := ⟨rfl, rfl, rfl⟩

theorem witness_OnlyHostChangesLifecycle :
    (∃ t, exec .init (presenting image2) = .next t ∧ (presenting image2).isLoaded = false ∧
      t.isLoaded = true) ∧
    (∃ t, exec .reset (loaded2 1 true) = .next t ∧ (loaded2 1 true).isLoaded = true ∧
      t.isLoaded = false) := by
  refine ⟨?_, _, rfl, rfl, rfl⟩
  obtain ⟨t, r, ht, hr, -⟩ := test_init_succeeds
  exact ⟨t, ht, rfl, isLoaded_of_loaded hr⟩

/-! INIT. -/

theorem witness_InitRejectsTruncatedHeader :
    (presenting ((header 0 1 0x30 0).take 15)).session = .unloaded ∧
    (presenting ((header 0 1 0x30 0).take 15)).imageChannel.length < 16 := by decide

theorem witness_InitMagicCheck :
    ((presentingStrict (List.replicate 16 0#8)).session = .unloaded ∧
      (presentingStrict (List.replicate 16 0#8)).cfg.checkMagic = true ∧
      16 ≤ (presentingStrict (List.replicate 16 0#8)).imageChannel.length ∧
      (presentingStrict (List.replicate 16 0#8)).imageChannel.take 4 ≠
        [0x4E#8, 0x45#8, 0x53#8, 0x1A#8]) ∧
    (State.reset.session = .unloaded ∧ State.reset.cfg.checkMagic = false ∧
      4 ≤ State.reset.cfg.hdrPrgCountOff.val ∧ 4 ≤ State.reset.cfg.hdrChrCountOff.val ∧
      4 ≤ State.reset.cfg.hdrFlags6Off.val ∧ 4 ≤ State.reset.cfg.hdrFlags7Off.val ∧
      [0#8, 0#8, 0#8, 0#8].length = 4 ∧ [0x4E#8, 0x45#8, 0x53#8, 0x1A#8].length = 4) := by
  decide

theorem witness_InitRejectsLengthMismatch :
    (presenting (header 0 0 0 0 ++ [0#8])).session = .unloaded ∧
    16 ≤ (presenting (header 0 0 0 0 ++ [0#8])).imageChannel.length ∧
    (presenting (header 0 0 0 0 ++ [0#8])).cfg.checkMagic = false ∧
    (header 0 0 0 0 ++ [0#8])[State.reset.cfg.hdrPrgCountOff.val]? = some 0#8 ∧
    (header 0 0 0 0 ++ [0#8])[State.reset.cfg.hdrChrCountOff.val]? = some 0#8 ∧
    (header 0 0 0 0 ++ [0#8]).length ≠ 16 + (0#8).toNat * 16384 + (0#8).toNat * 8192 := by
  decide

/-- A 16-byte image of mapper 0. -/
theorem witness_InitSelectsVariantByMapperId_unknown :
    (presenting (header 0 0 0 0)).PresentsWellSizedImage 0 0 0 0 ∧
    (0#8 : Byte) = (if defaultConfig.mapperIdUsesFlags7 then (0#8 &&& 0xF0#8) ||| (0#8 >>> 4)
      else 0#8 >>> 4) ∧
    (0#8 : Byte) ≠ defaultConfig.cnromMapperId :=
  ⟨⟨rfl, by decide, fun _ => rfl, rfl, rfl, rfl, rfl, rfl⟩, by decide, by decide⟩

theorem witness_InitSelectsVariantByMapperId_cnrom :
    ∃ t r, (presenting image2).session = .unloaded ∧ exec .init (presenting image2) = .next t ∧
      t.session = .loaded r := by
  obtain ⟨t, r, ht, hr, -⟩ := test_init_succeeds
  exact ⟨t, r, rfl, ht, hr⟩

/-- G = 0: an image of 16 bytes. -/
theorem witness_InitChecksBankCount_zero :
    (presenting (header 0 0 0x30 0)).PresentsWellSizedImage 0 0 0x30 0 ∧
    defaultConfig.cnromMapperId = (if defaultConfig.mapperIdUsesFlags7
      then (0#8 &&& 0xF0#8) ||| (0x30#8 >>> 4) else 0x30#8 >>> 4) :=
  ⟨⟨rfl, by decide, fun _ => rfl, rfl, rfl, rfl, rfl, rfl⟩, by decide⟩

/-- G = 3, under `reject` and under `mask`. -/
theorem witness_InitChecksBankCount_three :
    (presenting (header 0 3 0x30 0 ++ (bank 0 ++ (bank 1 ++ bank 2)))).PresentsWellSizedImage
      0 3 0x30 0 ∧
    (presentingStrict
      (header 0 3 0x30 0 ++ (bank 0 ++ (bank 1 ++ bank 2)))).PresentsWellSizedImage 0 3 0x30 0 ∧
    (3#8 : Byte) ≠ 0#8 ∧ (3#8 &&& (3#8 - 1#8) : Byte) ≠ 0#8 ∧
    defaultConfig.npotPolicy = .reject ∧ strictConfig.npotPolicy = .mask := by
  have hl : (header 0 3 0x30 0 ++ (bank 0 ++ (bank 1 ++ bank 2))).length =
      16 + (0#8).toNat * 16384 + (3#8).toNat * 8192 := by
    rw [List.length_append, List.length_append, List.length_append, bank_length, bank_length,
      bank_length, show (header 0 3 0x30 0).length = 16 from rfl]
    simp
  have h16 : 16 ≤ (header 0 3 0x30 0 ++ (bank 0 ++ (bank 1 ++ bank 2))).length := by
    rw [hl]
    simp
  exact ⟨⟨rfl, h16, fun _ => rfl, rfl, rfl, rfl, rfl, hl⟩,
    ⟨rfl, h16, fun _ => rfl, rfl, rfl, rfl, rfl, hl⟩, by decide, by decide, rfl, rfl⟩

theorem witness_InitStartsSession :
    (presenting image2).PresentsWellSizedImage 0 2 0x30 0 ∧
    defaultConfig.cnromMapperId = (if defaultConfig.mapperIdUsesFlags7
      then (0#8 &&& 0xF0#8) ||| (0x30#8 >>> 4) else 0x30#8 >>> 4) ∧
    (2#8 : Byte) ≠ 0#8 ∧ (2#8 &&& (2#8 - 1#8) : Byte) = 0#8 :=
  ⟨image2_wellSized, by decide, by decide, by decide⟩

theorem witness_FailedInitChangesNothing :
    ∃ t, (presenting []).session = .unloaded ∧ exec .init (presenting []) = .next t ∧
      t.responses ≠ ⟨.host, .ok .initOk⟩ :: (presenting []).responses :=
  ⟨_, rfl, rfl, by decide⟩

theorem witness_InitIsDeterministic :
    (presenting image2).session = (stateWith defaultConfig .unloaded []).session ∧
    (presenting image2).cfg = (stateWith defaultConfig .unloaded []).cfg ∧
    (presenting image2).imageChannel =
      { stateWith defaultConfig .unloaded [.cpu 0#32] with imageChannel := image2 }.imageChannel :=
  ⟨rfl, rfl, rfl⟩

/-- Two images that differ in the flag bits the block does not read (30 R78). -/
theorem witness_InitReadsOnlyHeaderFields :
    (header 0 0 0x30 0).length = (header 0 0 0x30 0 ++ []).length ∧
    16 ≤ (header 0 0 0x30 0).length ∧ defaultConfig.checkMagic = false ∧
    (∀ o ∈ [defaultConfig.hdrPrgCountOff, defaultConfig.hdrChrCountOff,
      defaultConfig.hdrFlags6Off, defaultConfig.hdrFlags7Off],
      (header 0 0 0x30 0)[o.val]? = ((header 0 0 0x30 0).set 15 0xFF#8)[o.val]?) := by decide

/-! WRITE. -/

theorem witness_UnclaimedWriteIsIgnored :
    (loaded2 1 false).session = .loaded (regs2 1 false) ∧ (0x7FFF#16 : Addr).toNat ≤ 0x7FFF ∧
    (0x0000#16 : Addr).toNat ≤ 0x7FFF := ⟨rfl, by decide, by decide⟩

/-- The two ends of the trigger range; also for ClaimedWriteIsIdempotent. -/
theorem witness_ClaimedWriteSwitchesBank :
    (loaded2 1 false).Inv ∧ (loaded2 1 false).session = .loaded (regs2 1 false) ∧
    0x8000 ≤ (0x8000#16 : Addr).toNat ∧ 0x8000 ≤ (0xFFFF#16 : Addr).toNat :=
  ⟨loaded2_inv (by decide), rfl, by decide, by decide⟩

/-- Two states with different banks on the surface, and two claimed addresses. -/
theorem witness_ClaimedWriteIsIdempotent :
    (∃ t, exec (.write 0x8000 1) (loaded2 0 false) = .next t) ∧
    (regs2 0 false).chrCount = (regs2 1 true).chrCount ∧
    (regs2 0 false).chrBase = (regs2 1 true).chrBase ∧
    (regs2 0 false).rom = (regs2 1 true).rom := by
  refine ⟨?_, rfl, rfl, by rw [regs2_rom, regs2_rom]⟩
  have hr : (regs2 0 false).Inv defaultConfig := regs2_inv (by decide)
  obtain ⟨m, hm⟩ := bankCopy_isSome (bank_in_rom hr (idx := 1#8) (by decide))
  have hs : (loaded2 0 false).session = .loaded (regs2 0 false) := rfl
  have hd : busDispatch (regs2 0 false) 0x8000 1 = .switched 1#8 := by decide
  simp only [exec, execWrite, hs, hd, hm, succeed]
  exact ⟨_, rfl⟩

/-- G = 1 and G = 128, the ends of the range of `k`. -/
theorem witness_MaskAndSelect :
    (0 : Nat) ≤ 7 ∧ (1#8 : Byte).toNat = 2 ^ 0 ∧ (7 : Nat) ≤ 7 ∧ (128#8 : Byte).toNat = 2 ^ 7 ∧
    Variant.cnrom.select 0xFF 3 = 2#8 := by decide

theorem witness_EverySelectableBankIsInTheImage :
    (loaded2 1 true).Inv ∧ (loaded2 1 true).session = .loaded (regs2 1 true) ∧ 8191 < 8192 :=
  ⟨loaded2_inv (by decide), rfl, by decide⟩

theorem witness_WriteEnablesGateTheSwitch :
    ∃ t q, exec (.write 0xC123 0xFD) (loaded2 0 false) = .next t ∧
      (loaded2 0 false).session = .loaded (regs2 0 false) ∧ t.session = .loaded q ∧
      q.sel ≠ (regs2 0 false).sel := by
  have hr : (regs2 0 false).Inv defaultConfig := regs2_inv (by decide)
  obtain ⟨m, hm⟩ := bankCopy_isSome (bank_in_rom hr (idx := 1#8) (by decide))
  have hs : (loaded2 0 false).session = .loaded (regs2 0 false) := rfl
  have hd : busDispatch (regs2 0 false) 0xC123 0xFD = .switched 1#8 := by decide
  have hx : exec (.write 0xC123 0xFD) (loaded2 0 false) = succeed .cpu (.switched 1)
      (((loaded2 0 false).setSession
        (.loaded (switchSession defaultConfig (regs2 0 false) 1 m))).emit 1) := by
    simp only [exec, execWrite, hs, hd, hm]
    rfl
  refine ⟨_, _, hx, rfl, rfl, ?_⟩
  intro h
  cases h

theorem witness_CopyLoopEqualsCopy :
    Memory.wf [(0, 9#8), (2, 8#8)] = true ∧
    Memory.below [1#8, 2#8, 3#8].length [(0, 9#8), (2, 8#8)] = true := by decide

/-! READ and DIRTYQ. -/

/-- 8192 and 0xFFFF. -/
theorem witness_ReadOutOfRange :
    (loaded2 1 true).session = .loaded (regs2 1 true) ∧ 8192 ≤ (0x2000#16 : Addr).toNat ∧
    8192 ≤ (0xFFFF#16 : Addr).toNat := ⟨rfl, by decide, by decide⟩

/-- A DIRTYQ is pending and runs after the READ. -/
theorem witness_OutOfRangeReadIsRecoverable :
    (stateWith defaultConfig (.loaded (regs2 1 true)) [.display 0x40000000#32]).session =
      .loaded (regs2 1 true) ∧ 8192 ≤ (0x2000#16 : Addr).toNat ∧
    (∃ t, exec (.read 0x2000)
      (stateWith defaultConfig (.loaded (regs2 1 true)) [.display 0x40000000#32]) = .next t) ∧
    ∃ u, Host.Core.run Sys2Proof.core 1
      (stateWith defaultConfig (.loaded (regs2 1 true)) [.display 0x40000000#32]) = .next u :=
  ⟨rfl, by decide, ⟨_, rfl⟩, ⟨_, rfl⟩⟩

theorem witness_ReadReturnsSurfaceByte :
    (loaded2 1 true).Inv ∧ (loaded2 1 true).session = .loaded (regs2 1 true) ∧
    (0#16 : Addr).toNat < 8192 ∧ (0x1FFF#16 : Addr).toNat < 8192 :=
  ⟨loaded2_inv (by decide), rfl, by decide, by decide⟩

theorem witness_DirtyqReadsAndClears :
    (presentingStrict []).cfg.hasDirty = false ∧
    (State.reset.cfg.hasDirty = true ∧ State.reset.session = .unloaded) ∧
    (loaded2 1 true).Inv ∧ (loaded2 1 true).cfg.hasDirty = true ∧
    (loaded2 1 true).session = .loaded (regs2 1 true) :=
  ⟨rfl, ⟨rfl, rfl⟩, loaded2_inv (by decide), rfl, rfl⟩

/-- A LOADED state whose record says: INIT succeeded, then a switch to bank 1. -/
def recorded2 : State :=
  { loaded2 1 true with
    responses := [⟨.cpu, .ok (.switched 1)⟩, ⟨.host, .ok .initOk⟩]
    trace := [1] }

/-- Also for StepKeepsRecord. -/
theorem witness_DirtyqReportsChangeSinceQuery :
    recorded2.RecordInv ∧ recorded2.session = .loaded (regs2 1 true) ∧
    recorded2.cfg.hasDirty = true := by
  refine ⟨⟨rfl, rfl, ?_, ?_⟩, rfl, rfl⟩
  · intro r hr
    cases hr
    rfl
  · intro r hr _
    cases hr
    rfl

theorem witness_StepKeepsRecord : recorded2.RecordInv ∧ ∃ t, step recorded2 = .next t :=
  ⟨witness_DirtyqReportsChangeSinceQuery.1, _, rfl⟩

/-! All commands and whole-machine results. -/

/-- A command with an error status; also for StatusesByCommand and CommandsLeaveInputsAlone. -/
theorem witness_ErrorsArePrecise :
    ∃ t, exec .init (loaded2 1 true) = .next t ∧ Status.sessionActive.isError = true :=
  ⟨_, rfl, rfl⟩

/-- A DIRTYQ emits nothing; a WRITE that switches is witness_WriteEnablesGateTheSwitch. -/
theorem witness_OnlySwitchedEmitsTrace :
    ∃ t, exec .dirtyq (loaded2 1 true) = .next t ∧
      ∀ idx, t.responses ≠ ⟨.display, .ok (.switched idx)⟩ :: (loaded2 1 true).responses :=
  ⟨_, rfl, fun idx h => by cases h⟩

theorem witness_DisplayPortIsReadOnly :
    Instr.dirtyq.port = .display ∧ (Instr.read 0x2000).port = .display ∧
    (∃ t, exec .dirtyq (loaded2 1 true) = .next t) ∧
    ∃ t, exec (.read 0x2000) (loaded2 1 true) = .next t :=
  ⟨rfl, rfl, ⟨_, rfl⟩, ⟨_, rfl⟩⟩

/-- Also for StepKeepsSessionInvariant: a LOADED state in which a step runs a command. -/
theorem witness_SessionConstantsNeverChange :
    ∃ t q, step (stateWith defaultConfig (.loaded (regs2 1 true)) [.display 0x40000000#32]) =
        .next t ∧ t.session = .loaded q ∧
      (stateWith defaultConfig (.loaded (regs2 1 true)) [.display 0x40000000#32]).Inv :=
  ⟨_, _, rfl, rfl, regs2_inv (by decide)⟩

theorem witness_SurfaceIsTheSelectedBank :
    (loaded2 1 true).Inv ∧ (loaded2 1 true).session = .loaded (regs2 1 true) ∧ 8191 < 8192 :=
  ⟨loaded2_inv (by decide), rfl, by decide⟩

/-- A step that adds a protocol status to a record without one; and a step without a command. -/
theorem witness_RecordedFaultsStay :
    (stateWith defaultConfig .unloaded [.cpu 0x20800006#32]).pending =
      .cpu 0x20800006#32 :: [] ∧
    (∃ t, step (stateWith defaultConfig .unloaded [.cpu 0x20800006#32]) = .next t ∧
      (stateWith defaultConfig .unloaded [.cpu 0x20800006#32]).recordsFault = false ∧
      t.recordsFault = true) ∧
    State.reset.pending = [] ∧ ∃ t, step State.reset = .next t :=
  ⟨rfl, ⟨_, rfl, rfl, rfl⟩, rfl, _, rfl⟩

/-- A program bank (95 section 0: all bytes 0xEA). -/
def programBank : List Byte := List.replicate 16384 0xEA#8

/-- N = 1, G = 2, mapper 3, at the two ends of the trigger range. -/
theorem witness_LaidOutImageIsServedBankByBank :
    (presenting (layoutImage (header 1 2 0x30 0) [programBank] twoBanks)).session = .unloaded ∧
    (presenting (layoutImage (header 1 2 0x30 0) [programBank] twoBanks)).imageChannel =
      layoutImage (header 1 2 0x30 0) [programBank] twoBanks ∧
    (header 1 2 0x30 0).length = 16 ∧ (header 1 2 0x30 0).take 4 = magic ∧
    (header 1 2 0x30 0)[defaultConfig.hdrPrgCountOff.val]? = some 1#8 ∧
    (header 1 2 0x30 0)[defaultConfig.hdrChrCountOff.val]? = some 2#8 ∧
    (header 1 2 0x30 0)[defaultConfig.hdrFlags6Off.val]? = some 0x30#8 ∧
    (header 1 2 0x30 0)[defaultConfig.hdrFlags7Off.val]? = some 0#8 ∧
    defaultConfig.cnromMapperId = (if defaultConfig.mapperIdUsesFlags7
      then (0#8 &&& 0xF0#8) ||| (0x30#8 >>> 4) else 0x30#8 >>> 4) ∧
    [programBank].length = (1#8).toNat ∧ twoBanks.length = (2#8).toNat ∧
    (∀ p ∈ [programBank], p.length = 16384) ∧ (∀ c ∈ twoBanks, c.length = 8192) ∧
    (2#8 : Byte) ≠ 0#8 ∧ (2#8 &&& (2#8 - 1#8) : Byte) = 0#8 ∧
    0x8000 ≤ (0x8000#16 : Addr).toNat ∧ 0x8000 ≤ (0xFFFF#16 : Addr).toNat := by
  refine ⟨rfl, rfl, rfl, rfl, rfl, rfl, rfl, rfl, by decide, rfl, rfl, ?_, ?_, by decide,
    by decide, by decide, by decide⟩
  · intro p hp
    rw [List.mem_singleton] at hp
    rw [hp, programBank, List.length_replicate]
  · intro c hc
    simp only [twoBanks, List.mem_cons, List.not_mem_nil, or_false] at hc
    rcases hc with rfl | rfl <;> exact bank_length _

/-- A READ between: `dirty` is clear before and after, and the one response is no query's. -/
theorem witness_BracketedReadsSeeOneBank :
    ∃ t q, (stateWith defaultConfig (.loaded (regs2 1 false)) [.display 0x30000000#32]).session =
        .loaded (regs2 1 false) ∧ (regs2 1 false).dirty = some false ∧
      Host.Core.run Sys2Proof.core 1
        (stateWith defaultConfig (.loaded (regs2 1 false)) [.display 0x30000000#32]) = .next t ∧
      t.session = .loaded q ∧ q.dirty = some false ∧
      t.responses = [⟨.display, .ok (.data 0x22)⟩] ++ [] ∧
      ∀ x ∈ [(⟨.display, .ok (.data 0x22)⟩ : Response)], x.answersQuery = false := by
  have hx : exec (.read 0) (stateWith defaultConfig (.loaded (regs2 1 false)) []) =
      .next (respond .display (.ok (.data 0x22))
        (stateWith defaultConfig (.loaded (regs2 1 false)) [])) := by
    have hs : (stateWith defaultConfig (.loaded (regs2 1 false)) []).session =
      .loaded (regs2 1 false) := rfl
    have ho : ¬ surfaceSize ≤ (0 : Addr).toNat := by decide
    have h : Memory.read (regs2 1 false).surf (0 : Addr).toNat = some 0x22#8 :=
      regs2_read false (by decide)
    simp only [exec, execRead, hs, ho, if_false, h, succeed]
    rfl
  have hstep : step
      (stateWith defaultConfig (.loaded (regs2 1 false)) [.display 0x30000000#32]) =
        .next (respond .display (.ok (.data 0x22))
          (stateWith defaultConfig (.loaded (regs2 1 false)) [])) := by
    rw [step_of_pending (r := .display 0x30000000#32) (rest := []) rfl]
    have hacc : (stateWith defaultConfig (.loaded (regs2 1 false))
      [.display 0x30000000#32]).accept (.display 0x30000000#32) [] =
        stateWith defaultConfig (.loaded (regs2 1 false)) [] := rfl
    have hd : decode (stateWith defaultConfig (.loaded (regs2 1 false)) []).cfg.hasDirty
      (Request.display 0x30000000#32).word = .ok (.read 0) := by decide
    rw [hacc, serve_of_decode hd rfl]
    exact hx
  refine ⟨_, regs2 1 false, rfl, rfl, run_succ_of_next hstep, rfl, rfl, rfl, ?_⟩
  intro x hx
  simp only [List.mem_cons, List.not_mem_nil, or_false] at hx
  subst hx
  rfl

/-! The assembler. -/

/-- Each range at its ends, and a name behind another name. -/
theorem witness_AssembledLinesDecode :
    (Source.select 0xFF).assemble [] = .ok (.cpu 0x208000FF#32) ∧ 0xFFFF ≤ 0xFFFF ∧
    0xFF ≤ 0xFF ∧ 0xFFFF < 0x10000 ∧ 0xFF < 0x100 ∧
    (∀ p ∈ [(['A'], [1#8])], p.1 ≠ ['B']) ∧
    (Source.init ['B']).assemble ([(['A'], [1#8])] ++ (['B'], [2#8]) :: []) =
      .ok (.host 0x10000000#32 [2#8]) ∧
    (Source.init ['B']).assemble [(['A'], [1#8])] = .error .unboundImage := by decide

/-- `read 0xA` before `dirtyq`. -/
theorem witness_TextLinesAreCommands :
    ['0', 'x', 'A'] ≠ [] ∧
    (∀ c ∈ ['0', 'x', 'A'], c ∉ [' ', '\t', '\r', ',', ';', '\n']) ∧
    parseNumber ['0', 'x', 'A'] = .ok 0xA ∧
    '\n' ∉ ['r', 'e', 'a', 'd', ' ', '0', 'x', 'A'] ∧
    parseLine ['r', 'e', 'a', 'd', ' ', '0', 'x', 'A'] =
      .ok (some (.read 0xA)) ∧
    (Source.read 0xA).assemble [] = .ok (.display 0x30000A00#32) ∧
    assemble [] ['d', 'i', 'r', 't', 'y', 'q'] = .ok [.display 0x40000000#32] := by
  refine ⟨by decide, ?_, by decide, by decide, by decide, by decide, by decide⟩
  intro c hc
  simp only [List.mem_cons, List.not_mem_nil, or_false] at hc
  rcases hc with rfl | rfl | rfl <;> decide

end Sys2Proof.Tests
end

section
/-! PROOFS. The statements about one step as a whole (spec/00_scope.md rules R5, R6, R10): every
command is answered in a good state, no command writes the machine's inputs, and the machine
idles when nothing is presented. -/

namespace Sys2Proof.Machine

/-! Every command is answered in a good state. -/

/-- The invariant speaks of the session and the parameters, which taking a command leaves. -/
theorem inv_accept_iff {s : State} {r : Request} {rest : List Request} :
    (s.accept r rest).Inv ↔ s.Inv := by
  simp only [State.Inv, accept_session, accept_cfg]

/-- In a good session every surface offset holds a byte (10 R29, R33). -/
theorem SessionRegs.Inv.exists_surf_read {cfg : Config} {r : SessionRegs} (hr : r.Inv cfg)
    {i : Nat} (hi : i < surfaceSize) : ∃ b, Memory.read r.surf i = some b := by
  have hsize : i < r.variant.bankSize := by cases r.variant; exact hi
  have hbank := bank_in_rom hr hr.selected
  have hrom : bankOffset r r.sel + i < r.rom.length := by omega
  exact ⟨_, by rw [bankCopy_read hr.surface, if_pos hsize, List.getElem?_eq_getElem hrom]⟩

/-- INIT is answered in every state: an image that passes the checks holds bank 0 (20 R52). -/
theorem exists_execInit_next (s : State) : ∃ t, exec .init s = .next t := by
  rcases hs : s.session with _ | r
  · rcases hc : checkImage s.cfg s.imageChannel with e | ⟨v, hd⟩
    · exact ⟨_, by simp only [exec, execInit, hs, hc]; rfl⟩
    · obtain ⟨m, hm⟩ := checkImage_bank_zero hc
      exact ⟨_, by simp only [exec, execInit, hs, hc, hm]; rfl⟩
  · exact ⟨_, by simp only [exec, execInit, hs]; rfl⟩

/-- WRITE is answered in every good state: the bank it selects is in the image (20 R52). -/
theorem State.Inv.exists_execWrite_next {s : State} (h : s.Inv) (a : Addr) (d : Byte) :
    ∃ t, exec (.write a d) s = .next t := by
  rcases hs : s.session with _ | r
  · exact ⟨_, by simp only [exec, execWrite, hs]; rfl⟩
  · have hr := (inv_iff_of_loaded hs).mp h
    have hsel : (r.variant.select d r.chrCount).toNat < r.chrCount.toNat := select_lt hr.banks
    obtain ⟨m, hm⟩ := bankCopy_isSome (bank_in_rom hr hsel)
    cases hc : claims r.variant a.toNat with
    | false =>
      exact ⟨_, by simp only [exec, execWrite, hs, busDispatch_eq, hc, Bool.false_eq_true,
        if_false]; rfl⟩
    | true =>
      exact ⟨_, by simp only [exec, execWrite, hs, busDispatch_eq, hc, if_true, hm]; rfl⟩

/-- READ is answered in every good state: below the surface size there is a byte (10 R29). -/
theorem State.Inv.exists_execRead_next {s : State} (h : s.Inv) (off : Addr) :
    ∃ t, exec (.read off) s = .next t := by
  rcases hs : s.session with _ | r
  · exact ⟨_, by simp only [exec, execRead, hs]; rfl⟩
  · by_cases ho : surfaceSize ≤ off.toNat
    · exact ⟨_, by simp only [exec, execRead, hs, if_pos ho]; rfl⟩
    · obtain ⟨b, hb⟩ := ((inv_iff_of_loaded hs).mp h).exists_surf_read (Nat.lt_of_not_le ho)
      exact ⟨_, by simp only [exec, execRead, hs, if_neg ho, hb]; rfl⟩

/-- DIRTYQ is answered in every good state: `dirty` exists where the feature does (10 R30). -/
theorem State.Inv.exists_execDirtyq_next {s : State} (h : s.Inv) :
    ∃ t, exec .dirtyq s = .next t := by
  by_cases hd : s.cfg.hasDirty = true
  · rcases hs : s.session with _ | r
    · exact ⟨_, by simp only [exec, execDirtyq, if_pos hd, hs]; rfl⟩
    · obtain ⟨v, hv⟩ := Option.isSome_iff_exists.mp
        (((inv_iff_of_loaded hs).mp h).dirtyExists.trans hd)
      exact ⟨_, by simp only [exec, execDirtyq, if_pos hd, hs, hv]; rfl⟩
  · exact ⟨_, by simp only [exec, execDirtyq, if_neg hd]; rfl⟩

/-- Progress: in a good state every command is answered. -/
theorem State.Inv.exists_exec_next {s : State} (h : s.Inv) (i : Instr) :
    ∃ t, exec i s = .next t := by
  cases i with
  | reset => exact ⟨_, execReset_eq s⟩
  | init => exact exists_execInit_next s
  | write a d => exact h.exists_execWrite_next a d
  | read off => exact h.exists_execRead_next off
  | dirtyq => exact h.exists_execDirtyq_next

theorem serve_ne_fault_of_inv {s : State} (h : s.Inv) (r : Request) (f : Fault) :
    serve r s ≠ .fault f := by
  obtain ⟨_, -, hserve⟩ | ⟨_, -, -, hserve⟩ | ⟨i, -, -, hserve⟩ := serve_cases r s
  · simp [hserve]
  · simp [hserve]
  · obtain ⟨t, ht⟩ := h.exists_exec_next i
    simp [hserve, ht]

/-- Settles O15: a step idles or serves the first pending command, and in a good state each
command is answered. -/
theorem goodStateNeverFaults : Obligations.GoodStateNeverFaults := by
  intro s h f
  cases hp : s.pending with
  | nil => simp [step_of_no_pending hp]
  | cons r rest =>
    rw [step_of_pending hp]
    exact serve_ne_fault_of_inv (inv_accept_iff.mpr h) r f

/-! The inputs. -/

/-- Settles O48: each next state of a command is made of a response, a session and a trace
event, none of which is an input. -/
theorem commandsLeaveInputsAlone : Obligations.CommandsLeaveInputsAlone := by
  intro i s t h
  cases i with
  | reset =>
    cases (execReset_eq s).symm.trans h
    simp
  | init =>
    obtain ⟨_, -, rfl⟩ | ⟨_, -, -, rfl⟩ | ⟨_, _, _, -, -, -, rfl⟩ := execInit_next_cases h <;> simp
  | write a d =>
    obtain ⟨-, rfl⟩ | ⟨_, -, -, rfl⟩ | ⟨_, _, -, -, -, rfl⟩ := execWrite_next_cases h <;> simp
  | read off =>
    obtain ⟨-, rfl⟩ | ⟨_, -, -, rfl⟩ | ⟨_, _, -, -, -, rfl⟩ := execRead_next_cases h <;> simp
  | dirtyq =>
    obtain ⟨-, rfl⟩ | ⟨-, -, rfl⟩ | ⟨_, _, -, -, -, rfl⟩ := execDirtyq_next_cases h <;> simp

/-- Settles O11: with nothing pending a step is `idle`. -/
theorem idleStepChangesNothing : Obligations.IdleStepChangesNothing :=
  fun _ => step_of_no_pending

end Sys2Proof.Machine
end

section
/-! PROOFS. The state of the block (spec/10_state.md): what one command does to the state, said
once for all commands, and from it the two invariants of a step, the lifecycle and the constants
of a session; then that no step reads the output record, and where the banks lie. -/

namespace Sys2Proof.Machine

/-! What one command does. -/

/-- A status that no command returns together with a change of the state: every one but those of
RESET, of a successful INIT, of a switching WRITE and of an answered DIRTYQ. -/
def Status.isQuiet : Status → Bool
  | .ok .initOk | .ok .resetOk | .ok (.switched _) | .ok (.bit _) => false
  | _ => true

/-- `Effect s d t`: a command that the decoder reads as `d` may take `s` to `t`. The four commits
of 10 R22 to R30, and the answers that leave every state element as it is. -/
inductive Effect (s : State) : Except IllegalReason Instr → State → Prop
  /-- an error status, a READ, or a WRITE that is not claimed (60 R186, 42 R152, 41 R127) -/
  | quiet {d : Except IllegalReason Instr} {p : Port} {st : Status} (hst : st.isQuiet = true) :
      Effect s d (respond p st s)
  /-- the session ends (40 R113) -/
  | reset : Effect s (.ok .reset) (respond .host (.ok .resetOk) (s.setSession .unloaded))
  /-- the commit of INIT (40 R110) -/
  | init {v : Variant} {hd : Header} {m : Memory} (hs : s.session = .unloaded)
      (hc : checkImage s.cfg s.imageChannel = .ok (v, hd))
      (hm : bankCopy v s.imageChannel (chrBaseOf v hd.prgCount).toNat = some m) :
      Effect s (.ok .init) (respond .host (.ok .initOk)
        (s.setSession (.loaded (latchSession s.cfg s.imageChannel v hd m))))
  /-- the commit of a claimed WRITE (41 R131) -/
  | switch {a : Addr} {data idx : Byte} {r : SessionRegs} {m : Memory}
      (hs : s.session = .loaded r) (ha : claims r.variant a.toNat = true)
      (hidx : idx = r.variant.select data r.chrCount)
      (hm : bankCopy r.variant r.rom (bankOffset r idx) = some m) :
      Effect s (.ok (.write a data)) (respond .cpu (.ok (.switched idx))
        ((s.setSession (.loaded (switchSession s.cfg r idx m))).emit idx))
  /-- the answered DIRTYQ, which clears `dirty` (42 R156) -/
  | query {r : SessionRegs} {v : Bool} (hs : s.session = .loaded r)
      (hd : s.cfg.hasDirty = true) (hv : r.dirty = some v) :
      Effect s (.ok .dirtyq) (respond .display (.ok (.bit v))
        (s.setSession (.loaded { r with dirty := some false })))

theorem checkCounts_error_isQuiet {v : Variant} {cfg : Config} {hd : Header} {e : Status}
    (h : v.checkCounts cfg hd = .error e) : e.isQuiet = true := by
  cases v
  simp only [Variant.checkCounts] at h
  split at h
  · cases h; rfl
  · split at h
    · cases h; rfl
    · cases h

theorem checkHeader_error_isQuiet {cfg : Config} {len : Nat} {hd : Header} {e : Status}
    (h : checkHeader cfg len hd = .error e) : e.isQuiet = true := by
  simp only [checkHeader] at h
  split at h
  · cases h; rfl
  · split at h
    · cases h; rfl
    · split at h
      · cases h
        exact checkCounts_error_isQuiet ‹_›
      · cases h

/-- The statuses of INIT's checks are errors of the image, none of them a result. -/
theorem checkImage_error_isQuiet {cfg : Config} {img : List Byte} {e : Status}
    (h : checkImage cfg img = .error e) : e.isQuiet = true := by
  simp only [checkImage] at h
  split at h
  · split at h
    · cases h; rfl
    · split at h
      · cases h
        exact checkHeader_error_isQuiet ‹_›
      · cases h
  · cases h; rfl

/-- A command that answers has one of the effects. -/
theorem effect_of_exec {i : Instr} {s t : State} (h : exec i s = .next t) :
    Effect s (.ok i) t := by
  cases i with
  | reset =>
    cases (execReset_eq s).symm.trans h
    exact .reset
  | init =>
    obtain ⟨_, -, rfl⟩ | ⟨e, -, hc, rfl⟩ | ⟨v, hd, m, hs, hc, hm, rfl⟩ := execInit_next_cases h
    · exact .quiet rfl
    · exact .quiet (checkImage_error_isQuiet hc)
    · exact .init hs hc hm
  | write a d =>
    obtain ⟨-, rfl⟩ | ⟨_, -, -, rfl⟩ | ⟨r, m, hs, ha, hm, rfl⟩ := execWrite_next_cases h
    · exact .quiet rfl
    · exact .quiet rfl
    · exact .switch hs ha rfl hm
  | read off =>
    obtain ⟨-, rfl⟩ | ⟨_, -, -, rfl⟩ | ⟨_, _, -, -, -, rfl⟩ := execRead_next_cases h <;>
      exact .quiet rfl
  | dirtyq =>
    obtain ⟨-, rfl⟩ | ⟨-, -, rfl⟩ | ⟨r, v, hd, hs, hv, rfl⟩ := execDirtyq_next_cases h
    · exact .quiet rfl
    · exact .quiet rfl
    · exact .query hs hd hv

/-- So has a command from a port, an illegal word among them. -/
theorem effect_of_serve {r : Request} {s t : State} (h : serve r s = .next t) :
    Effect s (decode s.cfg.hasDirty r.word) t := by
  obtain ⟨_, -, hr⟩ | ⟨_, -, -, hr⟩ | ⟨i, hd, -, hr⟩ := serve_cases r s
  · cases hr.symm.trans h
    exact .quiet rfl
  · cases hr.symm.trans h
  · rw [hd]
    exact effect_of_exec (hr.symm.trans h)

/-- A step idles or has the effect of the first pending command. -/
theorem step_next_cases {s t : State} (h : step s = .next t) :
    t = s ∨ ∃ r rest d, s.pending = r :: rest ∧ Effect (s.accept r rest) d t := by
  cases hp : s.pending with
  | nil =>
    cases (step_of_no_pending hp).symm.trans h
    exact .inl rfl
  | cons r rest =>
    exact .inr ⟨r, rest, _, rfl, effect_of_serve ((step_of_pending hp).symm.trans h)⟩

/-- What taking a command keeps and every effect keeps, every step keeps. -/
theorem step_preserves {P : State → Prop}
    (haccept : ∀ {s : State} (r : Request) (rest : List Request), P s → P (s.accept r rest))
    (heffect : ∀ {s t : State} {d : Except IllegalReason Instr}, P s → Effect s d t → P t)
    {s t : State} (hs : P s) (h : step s = .next t) : P t := by
  obtain rfl | ⟨r, rest, _, -, he⟩ := step_next_cases h
  · exact hs
  · exact heffect (haccept r rest hs) he

/-! The session invariant. -/

theorem dirtySet_isSome (cfg : Config) : (dirtySet cfg).isSome = cfg.hasDirty := by
  cases h : cfg.hasDirty <;> simp [dirtySet, h]

theorem toNat_pos_of_ne_zero {g : Byte} (h : g ≠ 0#8) : 0 < g.toNat := by bv_omega

/-- INIT's checks are what the invariant asks of a session that shows bank 0. -/
theorem latchSession_inv {cfg : Config} {img : List Byte} {v : Variant} {hd : Header}
    {m : Memory} (hc : checkImage cfg img = .ok (v, hd))
    (hm : bankCopy v img (chrBaseOf v hd.prgCount).toNat = some m) :
    (latchSession cfg img v hd m).Inv cfg := by
  obtain ⟨hlen, hmagic, rfl, himg, hid, hg, hpow⟩ := checkImage_ok_iff.mp hc
  exact {
    romLength := himg
    header := ⟨hlen, rfl⟩
    magicBytes := hmagic
    mapper := hid
    banks := hg
    powerOfTwo := hpow
    base := chrBaseOf_toNat v _
    selected := toNat_pos_of_ne_zero hg
    surface := by simpa [bankOffset, latchSession] using hm
    dirtyExists := dirtySet_isSome cfg }

/-- A switch writes `sel` below `G`, the surface to match it, and `dirty` where it exists. -/
theorem SessionRegs.Inv.switchSession {cfg : Config} {r : SessionRegs} (hr : r.Inv cfg)
    {idx : Byte} {m : Memory} (hidx : idx.toNat < r.chrCount.toNat)
    (hm : bankCopy r.variant r.rom (bankOffset r idx) = some m) :
    (switchSession cfg r idx m).Inv cfg :=
  { hr with
    selected := hidx
    surface := hm
    dirtyExists := by
      simp only [Machine.switchSession]
      split
      · exact Eq.symm ‹_›
      · exact hr.dirtyExists }

/-- A query writes `dirty`, which exists. -/
theorem SessionRegs.Inv.clearDirty {cfg : Config} {r : SessionRegs} (hr : r.Inv cfg)
    (hd : cfg.hasDirty = true) : { r with dirty := some false : SessionRegs }.Inv cfg :=
  { hr with dirtyExists := hd.symm }

theorem Effect.inv {s t : State} {d : Except IllegalReason Instr} (hs : s.Inv)
    (he : Effect s d t) : t.Inv := by
  cases he with
  | quiet _ => exact hs
  | reset => exact inv_of_unloaded rfl
  | init _ hc hm => exact latchSession_inv hc hm
  | switch hr _ hidx hm =>
    have hinv := (inv_iff_of_loaded hr).mp hs
    exact hinv.switchSession (hidx ▸ select_lt hinv.banks) hm
  | query hr hd => exact ((inv_iff_of_loaded hr).mp hs).clearDirty hd

/-- Settles O51: INIT's checks establish the invariant, a switch and a query keep it, and the
other effects leave the session or end it. -/
theorem stepKeepsSessionInvariant : Obligations.StepKeepsSessionInvariant :=
  fun _ _ => step_preserves (fun _ _ => inv_accept_iff.mpr) Effect.inv

/-! The output record. -/

section
variable {p : Port} {st : Status} (xs : List Response)

theorem switchedIndex_of_isQuiet (h : st.isQuiet = true) : switchedIndex ⟨p, st⟩ = none := by
  unfold switchedIndex
  split <;> simp_all [Status.isQuiet]

theorem sessionOpen_of_isQuiet (h : st.isQuiet = true) :
    sessionOpen (⟨p, st⟩ :: xs) = sessionOpen xs := by
  rw [sessionOpen]
  split <;> simp_all [Status.isQuiet]

theorem lastSelected_of_isQuiet (h : st.isQuiet = true) :
    lastSelected (⟨p, st⟩ :: xs) = lastSelected xs := by
  rw [lastSelected]
  split <;> simp_all [Status.isQuiet]

theorem changedSinceQuery_of_isQuiet (h : st.isQuiet = true) :
    changedSinceQuery (⟨p, st⟩ :: xs) = changedSinceQuery xs := by
  rw [changedSinceQuery]
  split <;> simp_all [Status.isQuiet]

end

theorem recordInv_accept {s : State} (r : Request) (rest : List Request) (h : s.RecordInv) :
    (s.accept r rest).RecordInv where
  traced := by simpa using h.traced
  opened := by simpa [State.isLoaded] using h.opened
  selected := by simpa using h.selected
  changed := by simpa using h.changed

theorem recordInv_respond_of_isQuiet {s : State} {p : Port} {st : Status} (h : s.RecordInv)
    (hst : st.isQuiet = true) : (respond p st s).RecordInv where
  traced := by simp [h.traced, switchedIndex_of_isQuiet hst]
  opened := by simp [h.opened, sessionOpen_of_isQuiet _ hst]
  selected := by simpa [lastSelected_of_isQuiet _ hst] using h.selected
  changed := by simpa [changedSinceQuery_of_isQuiet _ hst] using h.changed

theorem Effect.recordInv {s t : State} {d : Except IllegalReason Instr} (hs : s.RecordInv)
    (he : Effect s d t) : t.RecordInv := by
  cases he with
  | quiet hst => exact recordInv_respond_of_isQuiet hs hst
  | reset => exact {
      traced := by simpa [List.filterMap_cons, switchedIndex] using hs.traced
      opened := by simp [State.isLoaded, sessionOpen]
      selected := by simp
      changed := by simp }
  | init => exact {
      traced := by simpa [List.filterMap_cons, switchedIndex] using hs.traced
      opened := by simp [State.isLoaded, sessionOpen]
      selected := by simp [lastSelected, latchSession]
      changed := by simp +contextual [changedSinceQuery, latchSession, dirtySet] }
  | switch hr => exact {
      traced := by simpa [List.filterMap_cons, switchedIndex] using hs.traced
      opened := by simpa [State.isLoaded, sessionOpen, hr] using hs.opened
      selected := by simp [lastSelected, switchSession]
      changed := by simp +contextual [changedSinceQuery, switchSession] }
  | query hr => exact {
      traced := by simpa [List.filterMap_cons, switchedIndex] using hs.traced
      opened := by simpa [State.isLoaded, sessionOpen, hr] using hs.opened
      selected := by simpa [lastSelected] using hs.selected _ hr
      changed := by simp [changedSinceQuery] }

/-- Settles O52: a quiet answer leaves both the record and the state, and each of the four commits
writes to the session what its status says in the record. -/
theorem stepKeepsRecord : Obligations.StepKeepsRecord :=
  fun _ _ => step_preserves recordInv_accept Effect.recordInv

/-! The lifecycle and the constants of a session. -/

/-- Settles O21: of the effects only INIT's makes a session and only RESET's ends one. -/
theorem onlyHostChangesLifecycle : Obligations.OnlyHostChangesLifecycle := by
  intro i s t h
  cases effect_of_exec h with
  | quiet _ => simp +contextual
  | reset => simp [State.isLoaded]
  | init => simp [State.isLoaded]
  | switch hs => simp [State.isLoaded, hs]
  | query hs => simp [State.isLoaded, hs]

/-- Settles O50: of the effects on a LOADED state that leave it LOADED, a switch writes `sel`,
the surface and `dirty`, a query writes `dirty`, and a quiet answer nothing. -/
theorem sessionConstantsNeverChange : Obligations.SessionConstantsNeverChange := by
  intro s t r q h hr hq
  obtain rfl | ⟨c, rest, d, -, he⟩ := step_next_cases h
  · cases hr.symm.trans hq
    simp
  · rw [← accept_session s rest c] at hr
    cases he with
    | quiet _ =>
      cases hr.symm.trans hq
      simp
    | reset => cases hq
    | init hs => cases hs.symm.trans hr
    | switch hs =>
      cases hs.symm.trans hr
      cases hq
      simp [switchSession]
    | query hs =>
      cases hs.symm.trans hr
      cases hq
      simp

/-! No step reads the output record: a step from `s` answers what the step from `s` without its
record answers, with the record put back behind it. -/

/-- `s` with older responses and trace events behind its own. -/
def State.appendRecord (rs : List Response) (tr : List Byte) (s : State) : State :=
  { s with responses := s.responses ++ rs, trace := s.trace ++ tr }

/-- The outcome with its next state, if there is one, changed by `f`. -/
def mapNext (f : State → State) :
    Host.Outcome State Fault Refusal → Host.Outcome State Fault Refusal
  | .next s => .next (f s)
  | .fault r => .fault r
  | .refused r => .refused r

theorem mapNext_eq_next_iff {f : State → State} {o : Host.Outcome State Fault Refusal}
    {t : State} : mapNext f o = .next t ↔ ∃ u, o = .next u ∧ f u = t := by
  cases o <;> simp [mapNext]

section
variable (rs : List Response) (tr : List Byte) (s : State)

@[simp] theorem appendRecord_cfg : (s.appendRecord rs tr).cfg = s.cfg := rfl
@[simp] theorem appendRecord_session : (s.appendRecord rs tr).session = s.session := rfl
@[simp] theorem appendRecord_imageChannel :
    (s.appendRecord rs tr).imageChannel = s.imageChannel := rfl
@[simp] theorem appendRecord_pending : (s.appendRecord rs tr).pending = s.pending := rfl

theorem appendRecord_accept (r : Request) (rest : List Request) :
    (s.appendRecord rs tr).accept r rest = (s.accept r rest).appendRecord rs tr := by
  cases r <;> rfl

theorem execInit_appendRecord :
    execInit (s.appendRecord rs tr) = mapNext (State.appendRecord rs tr) (execInit s) := by
  simp only [execInit, appendRecord_session, appendRecord_cfg, appendRecord_imageChannel]
  split
  · rfl
  · split
    · rfl
    · split <;> rfl

theorem execWrite_appendRecord (a : Addr) (d : Byte) :
    execWrite a d (s.appendRecord rs tr) =
      mapNext (State.appendRecord rs tr) (execWrite a d s) := by
  simp only [execWrite, appendRecord_session, appendRecord_cfg]
  split
  · rfl
  · split
    · rfl
    · split <;> rfl

theorem execRead_appendRecord (off : Addr) :
    execRead off (s.appendRecord rs tr) =
      mapNext (State.appendRecord rs tr) (execRead off s) := by
  simp only [execRead, appendRecord_session]
  split
  · rfl
  · split
    · rfl
    · split <;> rfl

theorem execDirtyq_appendRecord :
    execDirtyq (s.appendRecord rs tr) = mapNext (State.appendRecord rs tr) (execDirtyq s) := by
  cases hd : s.cfg.hasDirty with
  | false =>
    simp only [execDirtyq, appendRecord_cfg, hd, Bool.false_eq_true, if_false]
    rfl
  | true =>
    simp only [execDirtyq, appendRecord_session, appendRecord_cfg, hd, if_true]
    split
    · rfl
    · split <;> rfl

theorem exec_appendRecord (i : Instr) :
    exec i (s.appendRecord rs tr) = mapNext (State.appendRecord rs tr) (exec i s) := by
  cases i with
  | reset => rfl
  | init => exact execInit_appendRecord rs tr s
  | write a d => exact execWrite_appendRecord rs tr s a d
  | read off => exact execRead_appendRecord rs tr s off
  | dirtyq => exact execDirtyq_appendRecord rs tr s

theorem serve_appendRecord (r : Request) :
    serve r (s.appendRecord rs tr) = mapNext (State.appendRecord rs tr) (serve r s) := by
  simp only [serve, appendRecord_cfg]
  split
  · rfl
  · split
    · exact exec_appendRecord rs tr s _
    · rfl

/-- A step commutes with putting an older record behind the state's own. -/
theorem step_appendRecord :
    step (s.appendRecord rs tr) = mapNext (State.appendRecord rs tr) (step s) := by
  cases hp : s.pending with
  | nil =>
    rw [step_of_no_pending hp, step_of_no_pending (s := s.appendRecord rs tr) hp]
    rfl
  | cons r rest =>
    rw [step_of_pending hp, step_of_pending (s := s.appendRecord rs tr) hp, appendRecord_accept,
      serve_appendRecord]

end

/-- `s` with an empty output record. -/
def State.clearRecord (s : State) : State := { s with responses := [], trace := [] }

/-- Settles O14: both steps are the step of the state without a record, and what that step
answers is what each of them adds to its own record. -/
theorem outputsHaveNoInfluence : Obligations.OutputsHaveNoInfluence := by
  intro s t rs tr h
  have hs : step s = mapNext (State.appendRecord s.responses s.trace) (step s.clearRecord) :=
    step_appendRecord s.responses s.trace s.clearRecord
  obtain ⟨u, hu, rfl⟩ := mapNext_eq_next_iff.mp (hs.symm.trans h)
  have hother : step { s with responses := rs, trace := tr } = .next (u.appendRecord rs tr) :=
    (step_appendRecord rs tr s.clearRecord).trans (by rw [hu]; rfl)
  exact ⟨_, u.responses, u.trace, hother, rfl, rfl, rfl, rfl, rfl, rfl, rfl, rfl⟩

/-! Where the banks lie. -/

/-- The offset of a bank in a good session, in the numbers of 41 R130. -/
theorem SessionRegs.Inv.bankOffset_eq {cfg : Config} {r : SessionRegs} (hr : r.Inv cfg)
    (idx : Byte) : bankOffset r idx = 16 + r.prgCount.toNat * 16384 + idx.toNat * 8192 := by
  rw [bankOffset, hr.base]
  cases r.variant
  rfl

theorem bankSize_eq (v : Variant) : v.bankSize = 8192 := by cases v; rfl

/-- The banks fill the image behind `chr_base` to its last byte. -/
theorem SessionRegs.Inv.romLength_eq {cfg : Config} {r : SessionRegs} (hr : r.Inv cfg) :
    r.rom.length = r.chrBase.toNat + r.chrCount.toNat * 8192 := by
  rw [hr.romLength, hr.base]
  cases r.variant
  rfl

/-- Settles O37: the mask keeps the index below `G`, and `G` banks fill the image behind
`chr_base`. -/
theorem everySelectableBankIsInTheImage : Obligations.EverySelectableBankIsInTheImage := by
  intro s r hs hr
  have hinv := (inv_iff_of_loaded hr).mp hs
  have hpos := toNat_pos_of_ne_zero hinv.banks
  have hlen := hinv.romLength_eq
  refine ⟨fun d => ?_, by omega⟩
  have hsel : (r.variant.select d r.chrCount).toNat < r.chrCount.toNat := select_lt hinv.banks
  have hbank := bank_in_rom hinv hsel
  rw [hinv.bankOffset_eq, bankSize_eq] at hbank
  exact ⟨hsel, fun i hi => by omega⟩

/-- Settles O53: the surface of a good session is the copy of bank `sel`, which lies inside the
image. -/
theorem surfaceIsTheSelectedBank : Obligations.SurfaceIsTheSelectedBank := by
  intro s r hs hr
  have hinv := (inv_iff_of_loaded hr).mp hs
  have hread := bankCopy_read hinv.surface
  simp only [bankOffset, bankSize_eq] at hread
  refine ⟨fun i hi => ?_, fun i hi => ?_, bankCopy_wf hinv.surface⟩
  · obtain ⟨b, hb⟩ := hinv.exists_surf_read hi
    exact ⟨b, hb, by rw [← hb, hread, if_pos hi]⟩
  · rw [hread, if_neg (by omega)]

end Sys2Proof.Machine
end

section
/-! PROOFS. The memory and order model (spec/20_memory.md): one command is one step, on the state
without the commands behind it; a claimed WRITE is idempotent; the display port is read-only. -/

namespace Sys2Proof.Machine

/-! One command, one step. -/

/-- Settles O8: taking the command is `accept`, and a legal command of its own port is served by
its meaning. -/
theorem stepRunsDecodedCommand : Obligations.StepRunsDecodedCommand := by
  intro s r rest i hp hd hport
  rw [step_of_pending hp, serve_of_decode (by rwa [accept_cfg]) hport]
  cases r <;> rfl

/-- A command's meaning returns exactly one status, on the port that may issue the command. -/
theorem exec_responses {i : Instr} {s t : State} (h : exec i s = .next t) :
    ∃ st, t.responses = ⟨i.port, st⟩ :: s.responses := by
  cases i with
  | reset =>
    cases (execReset_eq s).symm.trans h
    exact ⟨_, rfl⟩
  | init =>
    obtain ⟨_, -, rfl⟩ | ⟨_, -, -, rfl⟩ | ⟨_, _, _, -, -, -, rfl⟩ := execInit_next_cases h <;>
      exact ⟨_, rfl⟩
  | write a d =>
    obtain ⟨-, rfl⟩ | ⟨_, -, -, rfl⟩ | ⟨_, _, -, -, -, rfl⟩ := execWrite_next_cases h <;>
      exact ⟨_, rfl⟩
  | read off =>
    obtain ⟨-, rfl⟩ | ⟨_, -, -, rfl⟩ | ⟨_, _, -, -, -, rfl⟩ := execRead_next_cases h <;>
      exact ⟨_, rfl⟩
  | dirtyq =>
    obtain ⟨-, rfl⟩ | ⟨-, -, rfl⟩ | ⟨_, _, -, -, -, rfl⟩ := execDirtyq_next_cases h <;>
      exact ⟨_, rfl⟩

/-- Serving a command leaves the parameters and the commands behind it, and returns one status
on the port of the command. -/
theorem serve_next_frame {r : Request} {s t : State} (h : serve r s = .next t) :
    t.pending = s.pending ∧ t.cfg = s.cfg ∧ ∃ st, t.responses = ⟨r.port, st⟩ :: s.responses := by
  obtain ⟨_, -, hr⟩ | ⟨_, -, -, hr⟩ | ⟨i, -, hport, hr⟩ := serve_cases r s
  · cases hr.symm.trans h
    exact ⟨rfl, rfl, _, rfl⟩
  · cases hr.symm.trans h
  · have hexec := hr.symm.trans h
    obtain ⟨hcfg, -, hpending⟩ := commandsLeaveInputsAlone i s t hexec
    exact ⟨hpending, hcfg, hport ▸ exec_responses hexec⟩

/-- Settles O12: a step takes the command and serves it, and serving adds one status on its
port. -/
theorem oneStatusPerStep : Obligations.OneStatusPerStep := by
  intro s t r rest hp h
  simpa using serve_next_frame ((step_of_pending hp).symm.trans h)

/-! No command reads the commands behind it. -/

/-- `s` with other commands still to take. -/
def State.setPending (s : State) (rest : List Request) : State := { s with pending := rest }

section
variable (s : State) (rest : List Request)

@[simp] theorem setPending_cfg : (s.setPending rest).cfg = s.cfg := rfl
@[simp] theorem setPending_session : (s.setPending rest).session = s.session := rfl
@[simp] theorem setPending_imageChannel :
    (s.setPending rest).imageChannel = s.imageChannel := rfl

theorem accept_setPending (r : Request) (rest' : List Request) :
    (s.accept r rest).setPending rest' = s.accept r rest' := by
  cases r <;> rfl

end

/-- A command's meaning answers the same whatever commands are still to take. -/
theorem exec_setPending {i : Instr} {s t : State} (rest : List Request)
    (h : exec i s = .next t) : exec i (s.setPending rest) = .next (t.setPending rest) := by
  cases i with
  | reset =>
    cases (execReset_eq s).symm.trans h
    rfl
  | init =>
    simp only [exec, execInit, setPending_session, setPending_cfg, setPending_imageChannel]
    obtain ⟨_, hs, rfl⟩ | ⟨_, hs, hc, rfl⟩ | ⟨_, _, _, hs, hc, hm, rfl⟩ := execInit_next_cases h
    · rw [hs]; rfl
    · rw [hs, hc]; rfl
    · simp only [hs, hc, hm]; rfl
  | write a d =>
    simp only [exec, execWrite, setPending_session, setPending_cfg, busDispatch_eq]
    obtain ⟨hs, rfl⟩ | ⟨_, hs, hc, rfl⟩ | ⟨_, _, hs, hc, hm, rfl⟩ := execWrite_next_cases h
    · rw [hs]; rfl
    · simp only [hs, hc]; rfl
    · simp only [hs, hc, if_true, hm]; rfl
  | read off =>
    simp only [exec, execRead, setPending_session]
    obtain ⟨hs, rfl⟩ | ⟨_, hs, ho, rfl⟩ | ⟨_, _, hs, ho, hb, rfl⟩ := execRead_next_cases h
    · rw [hs]; rfl
    · simp only [hs, if_pos ho]; rfl
    · simp only [hs, if_neg (Nat.not_le_of_lt ho), hb]; rfl
  | dirtyq =>
    obtain ⟨hd, rfl⟩ | ⟨hd, hs, rfl⟩ | ⟨_, _, hd, hs, hv, rfl⟩ := execDirtyq_next_cases h
    · simp only [exec, execDirtyq, setPending_cfg, hd, Bool.false_eq_true, if_false]; rfl
    · simp only [exec, execDirtyq, setPending_cfg, setPending_session, hd, hs, if_true]; rfl
    · simp only [exec, execDirtyq, setPending_cfg, setPending_session, hd, hs, hv, if_true]; rfl

/-- So does serving a command, an illegal word among them. -/
theorem serve_setPending {r : Request} {s t : State} (rest : List Request)
    (h : serve r s = .next t) : serve r (s.setPending rest) = .next (t.setPending rest) := by
  obtain ⟨_, hd, hr⟩ | ⟨_, -, -, hr⟩ | ⟨_, hd, hport, hr⟩ := serve_cases r s
  · cases hr.symm.trans h
    simp only [serve, setPending_cfg, hd]
    rfl
  · cases hr.symm.trans h
  · rw [serve_of_decode (by rwa [setPending_cfg]) hport]
    exact exec_setPending rest (hr.symm.trans h)

/-- Settles O13: the two steps serve one command in states that differ in the commands still to
take. -/
theorem laterCommandsHaveNoInfluence : Obligations.LaterCommandsHaveNoInfluence := by
  intro s t r rest rest' hp h
  have hserve := serve_setPending rest' ((step_of_pending hp).symm.trans h)
  rw [accept_setPending] at hserve
  rw [step_of_pending (rest := rest') rfl]
  cases r <;> exact hserve

/-! A claimed WRITE. -/

/-- The comparator on a 16-bit address (41 R126). -/
theorem claims_addr_iff {v : Variant} {a : Addr} :
    claims v a.toNat = true ↔ 0x8000 ≤ a.toNat := by
  rw [claims, Bool.and_eq_true, decide_eq_true_eq, decide_eq_true_eq]
  cases v
  exact ⟨And.left, fun h => ⟨h, a.isLt⟩⟩

/-- A claimed WRITE in a session answers exactly when the selected bank lies in the image, and
then with the switch to that bank (41 R131). -/
theorem execWrite_claimed_iff {s t : State} {r : SessionRegs} {a : Addr} {d : Byte}
    (hs : s.session = .loaded r) (ha : 0x8000 ≤ a.toNat) :
    exec (.write a d) s = .next t ↔
      ∃ m, bankCopy r.variant r.rom (bankOffset r (r.variant.select d r.chrCount)) = some m ∧
        t = respond .cpu (.ok (.switched (r.variant.select d r.chrCount)))
          ((s.setSession (.loaded (switchSession s.cfg r (r.variant.select d r.chrCount) m))).emit
            (r.variant.select d r.chrCount)) := by
  simp only [exec, execWrite, hs, busDispatch_eq, claims_addr_iff.mpr ha, if_true]
  cases bankCopy r.variant r.rom (bankOffset r (r.variant.select d r.chrCount)) with
  | none => simp
  | some m => simp [succeed_eq_next_iff]

/-- The bank a data byte selects is a function of the byte, `G`, `chr_base` and the image. -/
theorem bankCopy_select_congr {r r' : SessionRegs} (hg : r.chrCount = r'.chrCount)
    (hb : r.chrBase = r'.chrBase) (hrom : r.rom = r'.rom) (d : Byte) :
    r.variant.select d r.chrCount = r'.variant.select d r'.chrCount ∧
      bankCopy r.variant r.rom (bankOffset r (r.variant.select d r.chrCount)) =
        bankCopy r'.variant r'.rom (bankOffset r' (r'.variant.select d r'.chrCount)) := by
  have hv : r.variant = r'.variant := by cases r.variant; cases r'.variant; rfl
  simp [bankOffset, hv, hg, hb, hrom]

/-- Settles O35: a switch leaves what the bank choice depends on (the image, `G` and `chr_base`),
so the second WRITE copies the bank that the first one did; and two sessions that agree in these
choose one bank. -/
theorem claimedWriteIsIdempotent : Obligations.ClaimedWriteIsIdempotent := by
  refine ⟨fun s t r a d _ hs ha h => ?_, fun s s' t r r' a a' d hs hs' ha ha' hg hb hrom h => ?_⟩
  · obtain ⟨m, hm, rfl⟩ := (execWrite_claimed_iff hs ha).mp h
    refine ⟨_, _, _, _, (execWrite_claimed_iff (r := switchSession s.cfg r _ m) rfl ha).mpr
      ⟨m, hm, rfl⟩, rfl, rfl, rfl, rfl, rfl, rfl, ?_⟩
    simp +contextual [switchSession]
  · obtain ⟨m, hm, rfl⟩ := (execWrite_claimed_iff hs ha).mp h
    obtain ⟨hsel, hcopy⟩ := bankCopy_select_congr hg hb hrom d
    exact ⟨_, _, _, (execWrite_claimed_iff hs' ha').mpr ⟨m, hcopy ▸ hm, rfl⟩, rfl, rfl, rfl, hsel⟩

/-! The display port. -/

/-- Settles O49: of the effects, those of the display port are a quiet answer and a query, and a
query is no READ. -/
theorem displayPortIsReadOnly : Obligations.DisplayPortIsReadOnly := by
  intro i s t hport h
  cases effect_of_exec h with
  | quiet _ =>
    refine ⟨rfl, fun _ => rfl, ?_⟩
    rcases hs : s.session with _ | r
    · exact .inl ⟨rfl, hs⟩
    · exact .inr ⟨r, r.dirty, rfl, hs, fun _ => rfl⟩
  | reset => cases hport
  | init => cases hport
  | switch => cases hport
  | query hs => exact ⟨rfl, fun _ => by simp [State.surf, hs], .inr ⟨_, _, hs, rfl, by simp⟩⟩

end Sys2Proof.Machine
end

section
/-! PROOFS. The command word (spec/30_encoding.md rules R61 to R70): decoder, encoder, opcode
table and illegal words, all in terms of the four fields of a word; and mask-and-select (R67). -/

namespace Sys2Proof

/-! A word is its four fields. -/

/-- Two words are equal when their fields are: the fields cover bits 31 to 0. -/
theorem word_eq_iff_fields {w v : Word} :
    w = v ↔ opField w = opField v ∧ rsvField w = rsvField v ∧ a16Field w = a16Field v ∧
      d8Field w = d8Field v := by
  refine ⟨fun h => by simp [h], fun h => ?_⟩
  simp only [opField, rsvField, a16Field, d8Field, ← BitVec.toNat_inj, BitVec.extractLsb'_toNat,
    Nat.shiftRight_eq_div_pow] at h ⊢
  omega

/-- The word of a command is the word with the command's fields. -/
theorem encode_eq_iff {i : Instr} {w : Word} :
    encode i = w ↔ opField w = i.opcode ∧ rsvField w = 0#4 ∧ a16Field w = i.a16 ∧
      d8Field w = i.d8 := by
  obtain ⟨hop, hrsv, ha, hd⟩ := Laws.EncodeFields.of_packWord i
  rw [eq_comm, word_eq_iff_fields, hop, hrsv, ha, hd]

/-! The two round trips. -/

/-- Settles O1: the fields of the word are the opcode and the operands of the command, so the
decoder takes the branch of the command's opcode. -/
theorem decodeOfEncode : Obligations.DecodeOfEncode := by
  intro hasDirty i hwf
  obtain ⟨hop, hrsv, ha, hd⟩ := Laws.EncodeFields.of_packWord i
  simp only [decode, operandBitsZero, hop, hrsv, ha, hd]
  cases i with
  | reset => rfl
  | init => rfl
  | write a d => rfl
  | read o => rfl
  | dirtyq => exact if_pos hwf

/-- Settles O2: each branch of the decoder that answers a command has checked the fields of the
word against it, and the branch of DIRTYQ that the command exists. -/
theorem encodeOfDecode : Obligations.EncodeOfDecode := by
  intro hasDirty w i h
  rw [encode_eq_iff]
  simp only [decode] at h
  split at h
  case isTrue hop =>
    split at h
    · cases h
      exact ⟨⟨hop, operandBitsZero_iff.mp ‹_›⟩, rfl⟩
    · cases h
  split at h
  case isTrue hop =>
    split at h
    · cases h
      exact ⟨⟨hop, operandBitsZero_iff.mp ‹_›⟩, rfl⟩
    · cases h
  split at h
  case isTrue hop =>
    split at h
    · cases h
      exact ⟨⟨hop, beq_iff_eq.mp ‹_›, rfl, rfl⟩, rfl⟩
    · cases h
  split at h
  case isTrue hop =>
    split at h
    case isTrue hz =>
      cases h
      rw [Bool.and_eq_true, beq_iff_eq, beq_iff_eq] at hz
      exact ⟨⟨hop, hz.1, rfl, hz.2⟩, rfl⟩
    · cases h
  split at h
  case isTrue hop =>
    split at h
    · split at h
      · cases h
        exact ⟨⟨hop, operandBitsZero_iff.mp ‹_›⟩, ‹_›⟩
      · cases h
    · cases h
  · cases h

/-- The decoder answers exactly the commands that exist, each on its own word. -/
theorem decode_eq_ok_iff {hasDirty : Bool} {w : Word} {i : Instr} :
    decode hasDirty w = .ok i ↔ encode i = w ∧ i.wf hasDirty = true :=
  ⟨encodeOfDecode hasDirty w i, fun ⟨hw, hwf⟩ => hw ▸ decodeOfEncode hasDirty i hwf⟩

/-- With `HAS_DIRTY` every command exists. -/
theorem Instr.wf_true (i : Instr) : i.wf true = true := by cases i <;> rfl

/-- Settles O5: the decoder run on each word. -/
theorem specWordsDecode : Obligations.SpecWordsDecode := by
  intro hasDirty
  cases hasDirty <;> decide

/-! The opcode table. -/

/-- A row covers a word field by field. -/
theorem covers_iff {r : OpcodeRow} {w : Word} :
    r.covers w = true ↔
      opField w &&& opField r.mask = opField r.value ∧
        rsvField w &&& rsvField r.mask = rsvField r.value ∧
        a16Field w &&& a16Field r.mask = a16Field r.value ∧
        d8Field w &&& d8Field r.mask = d8Field r.value := by
  rw [OpcodeRow.covers, beq_iff_eq, word_eq_iff_fields]
  simp only [opField, rsvField, a16Field, d8Field, BitVec.extractLsb'_and]

/-- A row whose mask is all ones covers its value alone (RESET, INIT, DIRTYQ). -/
theorem covers_allOnes_iff {m : String} {v w : Word} :
    (⟨m, v, 0xFFFFFFFF#32⟩ : OpcodeRow).covers w = true ↔ v = w := by
  rw [OpcodeRow.covers, beq_iff_eq, eq_comm]
  exact Eq.congr_right BitVec.and_allOnes

/-- The row of WRITE covers the words of the WRITEs: it fixes `OP` and `RSV`. -/
theorem covers_write_iff {w : Word} :
    (⟨"WRITE", 0x20000000#32, 0xFF000000#32⟩ : OpcodeRow).covers w = true ↔
      ∃ a d, encode (.write a d) = w := by
  have hfields : (⟨"WRITE", 0x20000000#32, 0xFF000000#32⟩ : OpcodeRow).covers w = true ↔
      opField w &&& BitVec.allOnes 4 = 0x2#4 ∧ rsvField w &&& BitVec.allOnes 4 = 0#4 ∧
        a16Field w &&& 0#16 = 0#16 ∧ d8Field w &&& 0#8 = 0#8 := covers_iff
  simp only [BitVec.and_allOnes, BitVec.and_zero] at hfields
  simp [hfields, encode_eq_iff, Instr.opcode, Instr.a16, Instr.d8]

/-- The row of READ covers the words of the READs: it fixes `OP`, `RSV` and `D8`. -/
theorem covers_read_iff {w : Word} :
    (⟨"READ", 0x30000000#32, 0xFF0000FF#32⟩ : OpcodeRow).covers w = true ↔
      ∃ o, encode (.read o) = w := by
  have hfields : (⟨"READ", 0x30000000#32, 0xFF0000FF#32⟩ : OpcodeRow).covers w = true ↔
      opField w &&& BitVec.allOnes 4 = 0x3#4 ∧ rsvField w &&& BitVec.allOnes 4 = 0#4 ∧
        a16Field w &&& 0#16 = 0#16 ∧ d8Field w &&& BitVec.allOnes 8 = 0#8 := covers_iff
  simp only [BitVec.and_allOnes, BitVec.and_zero] at hfields
  simp [hfields, encode_eq_iff, Instr.opcode, Instr.a16, Instr.d8]

/-- Settles O3: with `HAS_DIRTY` a word decodes exactly to the command it encodes, and each row
covers exactly the words of the commands with its mnemonic. -/
theorem decoderFollowsOpcodeTable : Obligations.DecoderFollowsOpcodeTable := by
  intro w m
  simp only [decode_eq_ok_iff, Instr.wf_true, and_true, opcodeTable, List.exists_mem_cons_iff,
    covers_allOnes_iff, covers_write_iff, covers_read_iff, List.not_mem_nil, false_and,
    exists_false, or_false]
  constructor
  · rintro ⟨i, hw, rfl⟩
    cases i with
    | reset => exact .inl ⟨rfl, hw⟩
    | init => exact .inr (.inl ⟨rfl, hw⟩)
    | write a d => exact .inr (.inr (.inl ⟨rfl, a, d, hw⟩))
    | read o => exact .inr (.inr (.inr (.inl ⟨rfl, o, hw⟩)))
    | dirtyq => exact .inr (.inr (.inr (.inr ⟨rfl, hw⟩)))
  · rintro (⟨rfl, hw⟩ | ⟨rfl, hw⟩ | ⟨rfl, a, d, hw⟩ | ⟨rfl, o, hw⟩ | ⟨rfl, hw⟩)
    · exact ⟨.reset, hw, rfl⟩
    · exact ⟨.init, hw, rfl⟩
    · exact ⟨.write a d, hw, rfl⟩
    · exact ⟨.read o, hw, rfl⟩
    · exact ⟨.dirtyq, hw, rfl⟩

/-! Illegal words. -/

/-- The classes of illegal words of 30 R63, R64 and R65, by the bits of the word. -/
def IllegalBits (hasDirty : Bool) (w : Word) : Prop :=
  0x5#4 ≤ opField w ∨
    ((opField w = 0x0#4 ∨ opField w = 0x1#4 ∨ opField w = 0x4#4) ∧
      w.extractLsb' 0 28 ≠ 0#28) ∨
    (opField w = 0x2#4 ∧ w.extractLsb' 24 4 ≠ 0#4) ∨
    (opField w = 0x3#4 ∧ (w.extractLsb' 24 4 ≠ 0#4 ∨ w.extractLsb' 0 8 ≠ 0#8)) ∨
    (hasDirty = false ∧ w = 0x40000000#32)

/-- A word that is illegal by its bits is the word of no command that exists. -/
theorem not_illegalBits_encode {hasDirty : Bool} {i : Instr} (hwf : i.wf hasDirty = true) :
    ¬ IllegalBits hasDirty (encode i) := by
  obtain ⟨hop, hrsv, -, hd⟩ := Laws.EncodeFields.of_packWord i
  rw [rsvField] at hrsv
  rw [d8Field] at hd
  have hdirtyq : opField 0x40000000#32 = 0x4#4 := by decide
  rw [IllegalBits, hop, hrsv, hd, encode_eq_iff, hdirtyq]
  cases i with
  | reset => decide +revert
  | init => decide +revert
  | write a d => simp [Instr.opcode]
  | read o => simp [Instr.opcode, Instr.d8]
  | dirtyq => cases hwf; decide

end Sys2Proof

namespace Sys2Proof.Machine

/-- Settles O4: the decoder rejects the word, and an illegal word adds its status and nothing
else to the state that took it. -/
theorem illegalWordChangesNothing : Obligations.IllegalWordChangesNothing := by
  intro s r rest hp hbits
  have hnone : ∀ i, decode (s.accept r rest).cfg.hasDirty r.word ≠ .ok i := by
    intro i hi
    rw [accept_cfg] at hi
    obtain ⟨hw, hwf⟩ := decode_eq_ok_iff.mp hi
    exact not_illegalBits_encode hwf (hw ▸ hbits)
  rw [step_of_pending hp]
  obtain ⟨_, -, hserve⟩ | ⟨i, hi, -, -⟩ | ⟨i, hi, -, -⟩ := serve_cases r (s.accept r rest)
  · exact ⟨_, hserve, by simp⟩
  · exact absurd hi (hnone i)
  · exact absurd hi (hnone i)

/-! Mask and select. -/

theorem select_eq (v : Variant) (d g : Byte) : v.select d g = d &&& (g - 1#8) := by
  cases v; rfl

/-- Settles O36: `2^k - 1` has the low `k` bits set, and masking twice is masking once. -/
theorem maskAndSelect : Obligations.MaskAndSelect := by
  refine ⟨select_eq, fun v d g k _ hg => ?_, fun v g b => ?_⟩
  · have hpos : 0 < 2 ^ k := Nat.two_pow_pos k
    have hmask : (g - 1#8).toNat = 2 ^ k - 1 := by bv_omega
    rw [select_eq, BitVec.toNat_and, hmask, Nat.and_two_pow_sub_one_eq_mod]
  · simp only [select_eq]
    constructor
    · rintro ⟨d, rfl⟩
      rw [BitVec.and_assoc, BitVec.and_self]
    · exact fun h => ⟨b, h⟩

end Sys2Proof.Machine
end

section
/-! PROOFS. The image layout (spec/30_encoding.md rule R74): where the bytes of a laid-out image
stand, that INIT accepts it, and that each bank a WRITE selects is one of its graphics banks. -/

namespace Sys2Proof.Machine

/-! Banks of one size, one behind the other. -/

theorem length_flatten_banks {banks : List (List Byte)} {k : Nat}
    (h : ∀ b ∈ banks, b.length = k) : banks.flatten.length = banks.length * k := by
  rw [List.length_flatten, List.map_eq_replicate_iff.mpr h, List.sum_replicate, smul_eq_mul]

/-- Byte `i` of bank `j`. -/
theorem getElem?_flatten_banks {banks : List (List Byte)} {bank : List Byte} {k i j : Nat}
    (h : ∀ b ∈ banks, b.length = k) (hj : banks[j]? = some bank) (hi : i < k) :
    banks.flatten[j * k + i]? = bank[i]? := by
  induction banks generalizing j with
  | nil => cases hj
  | cons b banks ih =>
    have hb : b.length = k := h b List.mem_cons_self
    rw [List.flatten_cons]
    cases j with
    | zero =>
      cases hj
      rw [Nat.zero_mul, Nat.zero_add, List.getElem?_append_left (by omega)]
    | succ j =>
      have hadd : (j + 1) * k + i - b.length = j * k + i := by rw [Nat.succ_mul]; omega
      rw [List.getElem?_append_right (by rw [Nat.succ_mul]; omega), hadd]
      exact ih (fun b hb => h b (List.mem_cons_of_mem _ hb)) hj

section
variable {header : List Byte} {prg chr : List (List Byte)} {n g : Byte}

/-- The header stands at the front of the image. -/
theorem getElem?_layoutImage_header {off : Nat} (hoff : off < header.length) :
    (layoutImage header prg chr)[off]? = header[off]? := by
  rw [layoutImage, List.append_assoc, List.getElem?_append_left hoff]

theorem take_layoutImage_header {k : Nat} (hk : k ≤ header.length) :
    (layoutImage header prg chr).take k = header.take k := by
  rw [layoutImage, List.append_assoc, List.take_append_of_le_length hk]

theorem length_layoutImage (hheader : header.length = 16) (hprg : prg.length = n.toNat)
    (hchr : chr.length = g.toNat) (hprgBank : ∀ p ∈ prg, p.length = 16384)
    (hchrBank : ∀ c ∈ chr, c.length = 8192) :
    (layoutImage header prg chr).length = imageLength n g := by
  rw [layoutImage, List.length_append, List.length_append, hheader,
    length_flatten_banks hprgBank, length_flatten_banks hchrBank, hprg, hchr]
  rfl

/-- Byte `i` of graphics bank `j` stands at `16 + N*16384 + j*8192 + i`. -/
theorem getElem?_layoutImage_chr {bank : List Byte} {i j : Nat} (hheader : header.length = 16)
    (hprg : prg.length = n.toNat) (hprgBank : ∀ p ∈ prg, p.length = 16384)
    (hchrBank : ∀ c ∈ chr, c.length = 8192) (hj : chr[j]? = some bank) (hi : i < 8192) :
    (layoutImage header prg chr)[16 + n.toNat * 16384 + j * 8192 + i]? = bank[i]? := by
  have hfront : (header ++ prg.flatten).length = 16 + n.toNat * 16384 := by
    rw [List.length_append, hheader, length_flatten_banks hprgBank, hprg]
  rw [layoutImage, Nat.add_assoc, List.getElem?_append_right (by omega), hfront,
    Nat.add_sub_cancel_left, getElem?_flatten_banks hchrBank hj hi]

end

/-! INIT and WRITE of an accepted image. -/

/-- INIT starts a session on an image that passes the checks, with bank 0 on the surface. -/
theorem execInit_of_checkImage {s : State} {v : Variant} {hd : Header}
    (hs : s.session = .unloaded) (hc : checkImage s.cfg s.imageChannel = .ok (v, hd)) :
    ∃ t m, exec .init s = .next t ∧
      bankCopy v s.imageChannel (chrBaseOf v hd.prgCount).toNat = some m ∧
      t.session = .loaded (latchSession s.cfg s.imageChannel v hd m) := by
  obtain ⟨m, hm⟩ := checkImage_bank_zero hc
  exact ⟨_, m, by simp only [exec, execInit, hs, hc, hm]; rfl, hm, rfl⟩

/-- In a good session a claimed WRITE puts the selected bank of the image on the surface. -/
theorem SessionRegs.Inv.exists_execWrite_claimed {cfg : Config} {r : SessionRegs}
    (hr : r.Inv cfg) {s : State} (hs : s.session = .loaded r) {a : Addr} (ha : 0x8000 ≤ a.toNat)
    (d : Byte) :
    ∃ u, exec (.write a d) s = .next u ∧ ∀ i, i < 8192 →
      Memory.read u.surf i =
        r.rom[16 + r.prgCount.toNat * 16384 + (d &&& (r.chrCount - 1#8)).toNat * 8192 + i]? := by
  obtain ⟨m, hm⟩ := bankCopy_isSome (bank_in_rom hr (select_lt (d := d) hr.banks))
  refine ⟨_, (execWrite_claimed_iff hs ha).mpr ⟨m, hm, rfl⟩, fun i hi => ?_⟩
  rw [respond_surf, emit_surf, surf_of_loaded (setSession_session _ _)]
  change Memory.read m i = _
  rw [bankCopy_read hm, if_pos (by rwa [bankSize_eq]), hr.bankOffset_eq, select_eq]

/-- The fields that the header names, where the image has these bytes at their offsets. -/
theorem readHeader_eq {cfg : Config} {img : List Byte} {n g f6 f7 : Byte}
    (h : headerSize ≤ img.length)
    (hn : img[cfg.hdrPrgCountOff.val]? = some n) (hg : img[cfg.hdrChrCountOff.val]? = some g)
    (h6 : img[cfg.hdrFlags6Off.val]? = some f6) (h7 : img[cfg.hdrFlags7Off.val]? = some f7) :
    readHeader cfg img h = ⟨n, g, mapperIdOf cfg.mapperIdUsesFlags7 f6 f7⟩ := by
  obtain ⟨_, hn⟩ := List.getElem?_eq_some_iff.mp hn
  obtain ⟨_, hg⟩ := List.getElem?_eq_some_iff.mp hg
  obtain ⟨_, h6⟩ := List.getElem?_eq_some_iff.mp h6
  obtain ⟨_, h7⟩ := List.getElem?_eq_some_iff.mp h7
  simp only [readHeader, headerByte, hn, hg, h6, h7]

/-- An image of the right length passes INIT's checks when its mapper-id is CNROM's and its
graphics-bank count is one that the policy admits (40 R107, R108). -/
theorem State.PresentsWellSizedImage.checkImage_eq_ok {s : State} {n g f6 f7 : Byte}
    (h : s.PresentsWellSizedImage n g f6 f7)
    (hid : s.cfg.cnromMapperId = mapperIdOf s.cfg.mapperIdUsesFlags7 f6 f7) (hg0 : g ≠ 0#8)
    (hpow : s.cfg.npotPolicy = .reject → g &&& (g - 1#8) = 0#8) :
    checkImage s.cfg s.imageChannel = .ok (.cnrom, ⟨n, g, s.cfg.cnromMapperId⟩) := by
  obtain ⟨-, hsize, hmagic, hn, hg, h6, h7, hlen⟩ := h
  refine checkImage_ok_iff.mpr ⟨hsize, hmagic, ?_, hlen, rfl, hg0, ?_⟩
  · rw [readHeader_eq hsize hn hg h6 h7, hid]
  · simpa [maskable] using hpow

/-- Settles O55: the laid-out image passes every check of INIT, which starts a good session on
it; the WRITE copies its bytes from the offset at which the selected bank stands. -/
theorem laidOutImageIsServedBankByBank : Obligations.LaidOutImageIsServedBankByBank := by
  intro s header prg chr n g f6 f7 a d hs himg hheader hmagic hn hg h6 h7 hid hprg hchr hprgBank
    hchrBank hg0 hpow ha
  have hbyte : ∀ off : Fin 16, s.imageChannel[off.val]? = header[off.val]? := fun off => by
    rw [himg, getElem?_layoutImage_header (by omega)]
  have hlen : s.imageChannel.length = imageLength n g := by
    rw [himg, length_layoutImage hheader hprg hchr hprgBank hchrBank]
  have hpresents : s.PresentsWellSizedImage n g f6 f7 := by
    refine ⟨hs, ?_, ?_, (hbyte _).trans hn, (hbyte _).trans hg, (hbyte _).trans h6,
      (hbyte _).trans h7, hlen⟩
    · rw [himg, layoutImage, List.length_append, List.length_append]
      omega
    · rw [himg, take_layoutImage_header (by omega)]
      exact hmagic
  have hc := hpresents.checkImage_eq_ok hid hg0 hpow
  obtain ⟨t, m, hinit, hm, ht⟩ := execInit_of_checkImage hs hc
  obtain ⟨u, hwrite, hsurf⟩ := (latchSession_inv hc hm).exists_execWrite_claimed ht ha d
  have hsel : (d &&& (g - 1#8)).toNat < chr.length := by
    rw [hchr, ← select_eq .cnrom]
    exact select_lt hg0
  have hbank := List.getElem?_eq_getElem hsel
  refine ⟨t, u, _, hinit, hwrite, hbank, fun i hi => (hsurf i hi).trans ?_⟩
  have hbyte := getElem?_layoutImage_chr hheader hprg hprgBank hchrBank hbank hi
  rwa [← himg] at hbyte

end Sys2Proof.Machine
end

section
/-! PROOFS. The assembler (spec/30_encoding.md rules R72 and R73): the numbers of a line, a line
as the request of its command, and the text of a line and of a stream. -/

namespace Sys2Proof.Machine

/-! Numbers. -/

/-- The digits of a number, each character changed by `f`, are read as the number, where `f`
leaves every digit its value. -/
theorem digits_map_toDigits {base : Nat} {f : Char → Char} (hbase : 1 < base)
    (hf : ∀ d < base, digitValue base (f (Nat.digitChar d)) = some d) (n : Nat) :
    digits base 0 ((Nat.toDigits base n).map f) = some n := by
  have hone : ∀ acc d, d < base →
      digits base acc ([Nat.digitChar d].map f) = some (acc * base + d) := fun acc d hd => by
    simp [digits, hf d hd]
  induction n using Nat.strongRecOn with
  | ind n ih =>
    by_cases hn : n < base
    · rw [Nat.toDigits_of_lt_base hn, hone 0 n hn, Nat.zero_mul, Nat.zero_add]
    · have hle : base ≤ n := Nat.le_of_not_lt hn
      have hdiv : n / base < n := Nat.div_lt_self (by omega) hbase
      rw [Nat.toDigits_of_base_le hbase hle, List.map_append, digits_append (ih _ hdiv),
        hone _ _ (Nat.mod_lt n (by omega)), Nat.div_add_mod']

/-- `x` is no decimal digit. -/
theorem digits_ten_zero_x (x : List Char) : digits 10 0 ('0' :: 'x' :: x) = none := rfl

/-- Decimal digits are read as a decimal number: they do not begin with `0x`. -/
theorem parseNumber_of_digits_ten {x : List Char} {n : Nat} (hx : x ≠ [])
    (h : digits 10 0 x = some n) : parseNumber x = .ok n := by
  unfold parseNumber
  split
  · exact absurd rfl hx
  · cases (digits_ten_zero_x _).symm.trans h
  · cases (digits_ten_zero_x _).symm.trans h
  · simp only [h]

/-- Hexadecimal digits behind `0x` are read as a hexadecimal number. -/
theorem parseNumber_of_digits_sixteen {x : List Char} {n : Nat} (hx : x ≠ [])
    (h : digits 16 0 x = some n) : parseNumber ('0' :: 'x' :: x) = .ok n := by
  cases x with
  | nil => exact absurd rfl hx
  | cons c cs => simp only [parseNumber, h]

/-- Settles O58: the digits of each of the three forms have their value in the base, and the
number is their value. -/
theorem numbersReadAsWritten : Obligations.NumbersReadAsWritten := by
  intro n
  have hten : digits 10 0 (Nat.toDigits 10 n) = some n := by
    simpa using digits_map_toDigits (f := id) (by decide) (by decide) n
  have hlower : digits 16 0 (Nat.toDigits 16 n) = some n := by
    simpa using digits_map_toDigits (f := id) (by decide) (by decide) n
  have hupper : digits 16 0 ((Nat.toDigits 16 n).map Char.toUpper) = some n :=
    digits_map_toDigits (by decide) (by decide) n
  exact ⟨parseNumber_of_digits_ten Nat.toDigits_ne_nil hten,
    parseNumber_of_digits_sixteen Nat.toDigits_ne_nil hlower,
    parseNumber_of_digits_sixteen (by simp [Nat.toDigits_ne_nil]) hupper⟩

/-! A line as a request. -/

/-- `write` with operands in range is the WRITE of the numbers written. -/
theorem exists_toInstr_write {a d : Nat} (ha : a ≤ 0xFFFF) (hd : d ≤ 0xFF) :
    ∃ (x : Addr) (y : Byte), x.toNat = a ∧ y.toNat = d ∧
      (Source.write a d).toInstr = .ok (.write x y) :=
  ⟨_, _, (BitVec.toNat_ofNat a 16).trans (Nat.mod_eq_of_lt (by omega)),
    (BitVec.toNat_ofNat d 8).trans (Nat.mod_eq_of_lt (by omega)), if_pos ⟨by omega, by omega⟩⟩

theorem toInstr_write_outOfRange {a d : Nat} (h : 0xFFFF < a ∨ 0xFF < d) :
    (Source.write a d).toInstr = .error .outOfRange :=
  if_neg (by omega)

/-- `read` with an offset in range is the READ of the number written. -/
theorem exists_toInstr_read {o : Nat} (ho : o ≤ 0xFFFF) :
    ∃ x : Addr, x.toNat = o ∧ (Source.read o).toInstr = .ok (.read x) :=
  ⟨_, (BitVec.toNat_ofNat o 16).trans (Nat.mod_eq_of_lt (by omega)), if_pos (by omega)⟩

theorem toInstr_read_outOfRange {o : Nat} (h : 0xFFFF < o) :
    (Source.read o).toInstr = .error .outOfRange :=
  if_neg (by omega)

/-- A line that is no command is no request. -/
theorem assemble_of_toInstr_error {images : ImageTable} {x : Source} {e : AsmError}
    (h : x.toInstr = .error e) : x.assemble images = .error e := by
  simp only [Source.assemble, h]

/-- A line that assembles is the request of its command, with the image of the line. -/
theorem assemble_eq_ok_iff {images : ImageTable} {x : Source} {r : Request} :
    x.assemble images = .ok r ↔
      ∃ i img, x.toInstr = .ok i ∧ x.image images = .ok img ∧
        r = requestOn i.port (encode i) img := by
  unfold Source.assemble
  cases x.toInstr with
  | error e => simp
  | ok i =>
    cases x.image images with
    | error e => simp
    | ok img => simp [eq_comm]

theorem requestOn_word (p : Port) (w : Word) (img : List Byte) :
    (requestOn p w img).word = w := by
  cases p <;> rfl

theorem requestOn_port (p : Port) (w : Word) (img : List Byte) :
    (requestOn p w img).port = p := by
  cases p <;> rfl

/-- `select b` is `write 0x8000, b` (30 R73). -/
theorem toInstr_select (b : Nat) : (Source.select b).toInstr = (Source.write 0x8000 b).toInstr :=
  rfl

/-- The request of `init` has the image bound to its name. -/
theorem assemble_init_of_lookupImage {images : ImageTable} {name : List Char} {img : List Byte}
    (h : lookupImage images name = some img) :
    (Source.init name).assemble images = .ok (.host 0x10000000#32 img) :=
  assemble_eq_ok_iff.mpr ⟨.init, img, rfl, by simp only [Source.image, h], rfl⟩

theorem assemble_init_of_unbound {images : ImageTable} {name : List Char}
    (h : lookupImage images name = none) :
    (Source.init name).assemble images = .error .unboundImage := by
  have hi : (Source.init name).toInstr = .ok .init := rfl
  simp only [Source.assemble, hi, Source.image, h]

/-- Settles O57: a line assembles to the request of its command, whose word decodes by the round
trip; a number in range is the value of the operand, and a number out of range is an error. -/
theorem assembledLinesDecode : Obligations.AssembledLinesDecode := by
  refine ⟨fun images x r h => ?_, fun images a d ha hd => ?_, fun images o ho => ?_,
    fun images => ⟨rfl, rfl⟩, fun before after name img h => ?_, fun images name h => ?_,
    fun images b => rfl, fun b hb => ?_, fun a d h => ?_, fun o h => ?_, fun b h => ?_⟩
  · obtain ⟨i, img, hi, -, rfl⟩ := assemble_eq_ok_iff.mp h
    refine ⟨i, hi, ?_, requestOn_port _ _ _⟩
    rw [requestOn_word]
    exact decodeOfEncode true i i.wf_true
  · obtain ⟨x, y, hx, hy, hi⟩ := exists_toInstr_write ha hd
    exact ⟨x, y, hx, hy, hi, assemble_eq_ok_iff.mpr ⟨_, [], hi, rfl, rfl⟩⟩
  · obtain ⟨x, hx, hi⟩ := exists_toInstr_read ho
    exact ⟨x, hx, hi, assemble_eq_ok_iff.mpr ⟨_, [], hi, rfl, rfl⟩⟩
  · exact assemble_init_of_lookupImage (lookupImage_append h)
  · exact assemble_init_of_unbound (lookupImage_eq_none h)
  · obtain ⟨x, d, hx, hd, hi⟩ := exists_toInstr_write (a := 0x8000) (by decide) hb
    have hx : x = 0x8000#16 := BitVec.eq_of_toNat_eq hx
    exact ⟨d, hd, by rw [toInstr_select, hi, hx]⟩
  · have he := toInstr_write_outOfRange h
    exact ⟨he, fun _ => assemble_of_toInstr_error he⟩
  · have he := toInstr_read_outOfRange h
    exact ⟨he, fun _ => assemble_of_toInstr_error he⟩
  · have he := (toInstr_select b).trans (toInstr_write_outOfRange (.inr h))
    exact ⟨he, fun _ => assemble_of_toInstr_error he⟩

/-! The text. -/

/-- A word of a line: not empty, and without the characters that separate words or end them. -/
def IsWord (x : List Char) : Prop :=
  x ≠ [] ∧ ∀ c ∈ x, c ∉ [' ', '\t', '\r', ',', ';', '\n']

theorem flushWord_of_ne_nil {x : List Char} (hx : x ≠ []) (rest : List (List Char)) :
    flushWord x rest = x :: rest :=
  if_neg hx

/-- A word and what follows it: the word is read whole. -/
theorem IsWord.tokens_append {x : List Char} (hx : IsWord x) (rest : List Char) :
    tokens [] (x ++ rest) = tokens x rest :=
  tokens_word fun c hc h => hx.2 c hc (by simp only [List.mem_cons] at h ⊢; tauto)

/-- The last word of a line. -/
theorem IsWord.tokens_eq {x : List Char} (hx : IsWord x) : tokens [] x = [x] := by
  have h := hx.tokens_append []
  rwa [List.append_nil, tokens, flushWord_of_ne_nil hx.1] at h

/-- A blank ends a word. -/
theorem IsWord.tokens_blank {x : List Char} (hx : IsWord x) (rest : List Char) :
    tokens [] (x ++ ' ' :: rest) = x :: tokens [] rest := by
  rw [hx.tokens_append, tokens, if_pos (.inl rfl), flushWord_of_ne_nil hx.1]

/-- A comma ends a word and is one. -/
theorem IsWord.tokens_comma {x : List Char} (hx : IsWord x) (rest : List Char) :
    tokens [] (x ++ ',' :: rest) = x :: [','] :: tokens [] rest := by
  rw [hx.tokens_append, tokens, if_neg (by decide), if_pos rfl, flushWord_of_ne_nil hx.1]

/-- A word holds no comment. -/
theorem IsWord.stripComment_append {x : List Char} (hx : IsWord x) (rest : List Char) :
    stripComment (x ++ rest) = x ++ stripComment rest :=
  List.takeWhile_append_of_pos fun c hc => by
    have hc := hx.2 c hc
    simp only [List.mem_cons, not_or] at hc
    simp [hc]

theorem IsWord.stripComment_eq {x : List Char} (hx : IsWord x) : stripComment x = x := by
  simpa [stripComment] using hx.stripComment_append []

/-- The words of a line of a mnemonic and one operand. -/
theorem parseLine_two_words {m x : List Char} (hm : IsWord m) (hx : IsWord x) :
    parseLine (m ++ ' ' :: x) = parseTokens [m, x] := by
  have hcomment : stripComment (m ++ ' ' :: x) = m ++ ' ' :: x := by
    rw [hm.stripComment_append]
    exact congrArg (m ++ ' ' :: ·) hx.stripComment_eq
  rw [parseLine, hcomment, hm.tokens_blank, hx.tokens_eq]

/-- The words of a line of a mnemonic and two operands with a comma between. -/
theorem parseLine_four_words {m x y : List Char} (hm : IsWord m) (hx : IsWord x)
    (hy : IsWord y) :
    parseLine (m ++ ' ' :: (x ++ ',' :: ' ' :: y)) = parseTokens [m, x, [','], y] := by
  have hcomment : stripComment (m ++ ' ' :: (x ++ ',' :: ' ' :: y)) =
      m ++ ' ' :: (x ++ ',' :: ' ' :: y) := by
    have hoperands : stripComment (x ++ ',' :: ' ' :: y) = x ++ ',' :: ' ' :: y := by
      rw [hx.stripComment_append]
      exact congrArg (x ++ ',' :: ' ' :: ·) hy.stripComment_eq
    rw [hm.stripComment_append]
    exact congrArg (m ++ ' ' :: ·) hoperands
  have hblank : tokens [] (' ' :: y) = tokens [] y := rfl
  rw [parseLine, hcomment, hm.tokens_blank, hx.tokens_comma, hblank, hy.tokens_eq]

/-- No number is written without a character. -/
theorem ne_nil_of_parseNumber {x : List Char} {n : Nat} (h : parseNumber x = .ok n) :
    x ≠ [] := by
  rintro rfl
  cases h

theorem isWord_init : IsWord ['i', 'n', 'i', 't'] := by simp [IsWord]
theorem isWord_read : IsWord ['r', 'e', 'a', 'd'] := by simp [IsWord]
theorem isWord_select : IsWord ['s', 'e', 'l', 'e', 'c', 't'] := by simp [IsWord]
theorem isWord_write : IsWord ['w', 'r', 'i', 't', 'e'] := by simp [IsWord]

/-- Settles O59: the words of a line are its mnemonic and its operands, a comment is cut before
the words are read, and a line feed parts the first line from the rest. -/
theorem textLinesAreCommands : Obligations.TextLinesAreCommands := by
  refine ⟨by decide, fun x hx0 hxc => ?_, fun line comment => ?_,
    fun images line text x r rs hline hparse hx hrest => ?_⟩
  · have hx : IsWord x := ⟨hx0, hxc⟩
    refine ⟨parseLine_two_words isWord_init hx, fun n hn => ⟨?_, ?_, fun y m hyc hm => ?_⟩⟩
    · refine (parseLine_two_words isWord_read hx).trans ?_
      simp [parseTokens, hn]
    · refine (parseLine_two_words isWord_select hx).trans ?_
      simp [parseTokens, hn]
    · have hy : IsWord y := ⟨ne_nil_of_parseNumber hm, hyc⟩
      have hwords := parseLine_four_words isWord_write hx hy
      simpa [parseTokens, hn, hm] using hwords
  · rw [parseLine, stripComment_append, parseLine]
  · rw [assemble, splitLines_line hline, List.nil_append]
    rw [assemble] at hrest
    simp only [assembleLines, hparse, hx, hrest]

end Sys2Proof.Machine
end

section
/-! PROOFS. The ROM loader (spec/40_rom_loader.md): what each outcome of INIT's checks makes of
INIT, which image each check rejects, and from these what INIT reads and what a session starts
with. -/

namespace Sys2Proof.Machine

/-! INIT in terms of its checks. -/

theorem execInit_of_loaded {s : State} {r : SessionRegs} (hs : s.session = .loaded r) :
    exec .init s = .next (respond .host .sessionActive s) := by
  simp only [exec, execInit, hs]
  rfl

theorem execInit_of_checkImage_error {s : State} {e : Status} (hs : s.session = .unloaded)
    (hc : checkImage s.cfg s.imageChannel = .error e) :
    exec .init s = .next (respond .host e s) := by
  simp only [exec, execInit, hs, hc]
  rfl

theorem execInit_of_checkImage_ok {s : State} {v : Variant} {hd : Header} {m : Memory}
    (hs : s.session = .unloaded) (hc : checkImage s.cfg s.imageChannel = .ok (v, hd))
    (hm : bankCopy v s.imageChannel (chrBaseOf v hd.prgCount).toNat = some m) :
    exec .init s = .next (respond .host (.ok .initOk)
      (s.setSession (.loaded (latchSession s.cfg s.imageChannel v hd m)))) := by
  simp only [exec, execInit, hs, hc, hm]
  rfl

/-- Settles O29: an image that passes the checks holds graphics bank 0. -/
theorem initAlwaysAnswers : Obligations.InitAlwaysAnswers := exists_execInit_next

/-- Settles O30: each of INIT's three answers is decided by the session and by the checks, which
see the parameters and the image alone. -/
theorem initIsDeterministic : Obligations.InitIsDeterministic := by
  intro s s' hsession hcfg himg
  obtain ⟨t, ht⟩ := exists_execInit_next s
  obtain ⟨r, hs, rfl⟩ | ⟨e, hs, hc, rfl⟩ | ⟨v, hd, m, hs, hc, hm, rfl⟩ := execInit_next_cases ht
  · rw [hsession] at hs
    exact ⟨_, _, _, ht, execInit_of_loaded hs, hsession, rfl, rfl⟩
  · rw [hsession] at hs
    rw [hcfg, himg] at hc
    exact ⟨_, _, _, ht, execInit_of_checkImage_error hs hc, hsession, rfl, rfl⟩
  · rw [hsession] at hs
    rw [hcfg, himg] at hc
    rw [himg] at hm
    refine ⟨_, _, _, ht, execInit_of_checkImage_ok hs hc hm, ?_, rfl, rfl⟩
    simp only [respond_session, setSession_session, hcfg, himg]

/-! What each check rejects, in the order of 40 R106. -/

theorem checkImage_of_truncated {cfg : Config} {img : List Byte} (h : img.length < headerSize) :
    checkImage cfg img = .error (.malformedImage (.headerTruncated headerSize img.length)) := by
  rw [checkImage, dif_neg (Nat.not_le_of_lt h)]

theorem checkImage_of_badMagic {cfg : Config} {img : List Byte} (h : headerSize ≤ img.length)
    (hcheck : cfg.checkMagic = true) (hmagic : img.take 4 ≠ magic) :
    checkImage cfg img = .error (.malformedImage (.badMagic (img.take 4))) := by
  rw [checkImage, dif_pos h, if_pos ⟨hcheck, hmagic⟩]

/-- Past the checks of length 16 and of the magic, the header fields decide. -/
theorem checkImage_of_checkHeader_error {cfg : Config} {img : List Byte} {e : Status}
    (h : headerSize ≤ img.length) (hmagic : cfg.checkMagic = true → img.take 4 = magic)
    (he : checkHeader cfg img.length (readHeader cfg img h) = .error e) :
    checkImage cfg img = .error e := by
  have hgood : ¬ (cfg.checkMagic = true ∧ img.take 4 ≠ magic) := fun ⟨hcheck, hne⟩ =>
    hne (hmagic hcheck)
  rw [checkImage, dif_pos h, if_neg hgood, he]

theorem checkHeader_of_length_ne {cfg : Config} {len : Nat} {hd : Header}
    (hlen : len ≠ imageLength hd.prgCount hd.chrCount) :
    checkHeader cfg len hd = .error (.malformedImage (.lengthMismatch
      (imageLength hd.prgCount hd.chrCount) len hd.prgCount hd.chrCount)) := by
  rw [checkHeader, if_pos hlen]

theorem checkHeader_of_mapperId_ne {cfg : Config} {len : Nat} {hd : Header}
    (hlen : len = imageLength hd.prgCount hd.chrCount) (hid : hd.mapperId ≠ cfg.cnromMapperId) :
    checkHeader cfg len hd = .error (.unsupportedConfiguration (.unknownMapper hd.mapperId)) := by
  have hnone : variantOfId cfg hd.mapperId = none := if_neg hid
  rw [checkHeader, if_neg (not_not_intro hlen), hnone]

theorem checkHeader_of_checkCounts_error {cfg : Config} {len : Nat} {hd : Header} {e : Status}
    (hlen : len = imageLength hd.prgCount hd.chrCount) (hid : hd.mapperId = cfg.cnromMapperId)
    (he : Variant.checkCounts .cnrom cfg hd = .error e) : checkHeader cfg len hd = .error e := by
  have hsome : variantOfId cfg hd.mapperId = some .cnrom := variantOfId_eq_some_iff.mpr hid
  rw [checkHeader, if_neg (not_not_intro hlen), hsome]
  simp only [he]

theorem checkCounts_of_chrCount_eq_zero {cfg : Config} {hd : Header} (hg : hd.chrCount = 0#8) :
    Variant.checkCounts .cnrom cfg hd =
      .error (.unsupportedConfiguration (.zeroGraphicsBanks hd.chrCount)) := if_pos hg

theorem checkCounts_of_not_maskable {cfg : Config} {hd : Header} (hg : hd.chrCount ≠ 0#8)
    (hpol : cfg.npotPolicy = .reject) (hmask : maskable hd.chrCount = false) :
    Variant.checkCounts .cnrom cfg hd =
      .error (.unsupportedConfiguration (.nonPowerOfTwo hd.chrCount)) :=
  (if_neg hg).trans (if_pos ⟨hpol, hmask⟩)

theorem checkHeader_error_kind {cfg : Config} {len : Nat} {hd : Header} {e : Status}
    (h : checkHeader cfg len hd = .error e) : e.kind = .fatal := by
  by_cases hlen : len = imageLength hd.prgCount hd.chrCount
  · by_cases hid : hd.mapperId = cfg.cnromMapperId
    · by_cases hg : hd.chrCount = 0#8
      · cases (checkHeader_of_checkCounts_error hlen hid
          (checkCounts_of_chrCount_eq_zero hg)).symm.trans h
        rfl
      · by_cases hpow : cfg.npotPolicy = .reject ∧ maskable hd.chrCount = false
        · obtain ⟨hpol, hmask⟩ := hpow
          cases (checkHeader_of_checkCounts_error hlen hid
            (checkCounts_of_not_maskable hg hpol hmask)).symm.trans h
          rfl
        · have hok : checkHeader cfg len hd = .ok .cnrom :=
            checkHeader_ok_iff.mpr ⟨hlen, hid, hg, by simpa using hpow⟩
          cases hok.symm.trans h
    · cases (checkHeader_of_mapperId_ne hlen hid).symm.trans h
      rfl
  · cases (checkHeader_of_length_ne hlen).symm.trans h
    rfl

/-- Every status of INIT's checks is fatal: the image is malformed or unsupported (60 R180). -/
theorem checkImage_error_kind {cfg : Config} {img : List Byte} {e : Status}
    (h : checkImage cfg img = .error e) : e.kind = .fatal := by
  by_cases hsize : headerSize ≤ img.length
  · by_cases hmagic : cfg.checkMagic = true → img.take 4 = magic
    · rcases hhd : checkHeader cfg img.length (readHeader cfg img hsize) with e' | v
      · cases (checkImage_of_checkHeader_error hsize hmagic hhd).symm.trans h
        exact checkHeader_error_kind hhd
      · cases (checkImage_ok_iff.mpr
          ⟨hsize, hmagic, rfl, checkHeader_ok_iff.mp hhd⟩).symm.trans h
    · obtain ⟨hcheck, hne⟩ := Classical.not_imp.mp hmagic
      cases (checkImage_of_badMagic hsize hcheck hne).symm.trans h
      rfl
  · cases (checkImage_of_truncated (Nat.lt_of_not_le hsize)).symm.trans h
    rfl

/-- Settles O22: the length of the header is the first check. -/
theorem initRejectsTruncatedHeader : Obligations.InitRejectsTruncatedHeader :=
  fun _ hs hlen => execInit_of_checkImage_error hs (checkImage_of_truncated hlen)

/-- Settles O24: the length is compared with the two counts before any other header field is
looked at. -/
theorem initRejectsLengthMismatch : Obligations.InitRejectsLengthMismatch := by
  intro s n g hs hsize hmagic hn hg hlen
  have hbyte : ∀ off : Fin 16, ∃ b, s.imageChannel[off.val]? = some b := fun off =>
    ⟨_, List.getElem?_eq_getElem (Nat.lt_of_lt_of_le off.isLt hsize)⟩
  obtain ⟨f6, h6⟩ := hbyte s.cfg.hdrFlags6Off
  obtain ⟨f7, h7⟩ := hbyte s.cfg.hdrFlags7Off
  refine execInit_of_checkImage_error hs (checkImage_of_checkHeader_error hsize hmagic ?_)
  rw [readHeader_eq hsize hn hg h6 h7]
  exact checkHeader_of_length_ne hlen

/-- Settles O28: the answer without `InitOk` is the status of the check that failed. -/
theorem failedInitChangesNothing : Obligations.FailedInitChangesNothing := by
  intro s t hs ht hfail
  obtain ⟨r, hr, -⟩ | ⟨e, -, hc, rfl⟩ | ⟨v, hd, m, -, -, -, rfl⟩ := execInit_next_cases ht
  · cases hs.symm.trans hr
  · exact ⟨e, by rw [Status.isError, checkImage_error_kind hc]; rfl, rfl⟩
  · exact absurd rfl hfail

/-! An image of the right length. -/

/-- For an image of the right length, INIT answers what the check of the header fields says. -/
theorem State.PresentsWellSizedImage.execInit_eq {s : State} {n g f6 f7 : Byte} {e : Status}
    (h : s.PresentsWellSizedImage n g f6 f7)
    (he : checkHeader s.cfg (imageLength n g)
      ⟨n, g, mapperIdOf s.cfg.mapperIdUsesFlags7 f6 f7⟩ = .error e) :
    exec .init s = .next (respond .host e s) := by
  obtain ⟨hs, hsize, hmagic, hn, hg, h6, h7, hlen⟩ := h
  refine execInit_of_checkImage_error hs (checkImage_of_checkHeader_error hsize hmagic ?_)
  rw [readHeader_eq hsize hn hg h6 h7]
  exact hlen ▸ he

/-- Settles O25: the lookup finds CNROM by its id alone, and the checks that a session starts
from compare the latched id with it. -/
theorem initSelectsVariantByMapperId : Obligations.InitSelectsVariantByMapperId := by
  refine ⟨fun s n g f6 f7 id h hid hne => ?_, fun s t r hs ht hr => ?_⟩
  · subst hid
    exact h.execInit_eq (checkHeader_of_mapperId_ne rfl hne)
  · obtain ⟨_, hs', -⟩ | ⟨_, -, -, rfl⟩ | ⟨v, hd, m, -, hc, -, rfl⟩ := execInit_next_cases ht
    · cases hs.symm.trans hs'
    · cases hs.symm.trans hr
    · cases hr
      obtain ⟨-, -, -, -, hid, -⟩ := checkImage_ok_iff.mp hc
      cases v
      exact ⟨rfl, hid⟩

/-- An accepted image starts a session with bank 0 on the surface (40 R110). -/
theorem State.PresentsWellSizedImage.exists_execInit_initOk {s : State} {n g f6 f7 : Byte}
    (h : s.PresentsWellSizedImage n g f6 f7)
    (hid : s.cfg.cnromMapperId = mapperIdOf s.cfg.mapperIdUsesFlags7 f6 f7) (hg : g ≠ 0#8)
    (hpow : s.cfg.npotPolicy = .reject → g &&& (g - 1#8) = 0#8) :
    ∃ m r, bankCopy .cnrom s.imageChannel (16 + n.toNat * 16384) = some m ∧
      r = latchSession s.cfg s.imageChannel .cnrom ⟨n, g, s.cfg.cnromMapperId⟩ m ∧
      r.Inv s.cfg ∧
      exec .init s = .next (respond .host (.ok .initOk) (s.setSession (.loaded r))) := by
  have hc := h.checkImage_eq_ok hid hg hpow
  obtain ⟨m, hm⟩ := checkImage_bank_zero hc
  obtain ⟨hs, -⟩ := h
  refine ⟨m, _, ?_, rfl, latchSession_inv hc hm, execInit_of_checkImage_ok hs hc hm⟩
  rwa [chrBaseOf_toNat] at hm

/-- Settles O26: the count is checked after the mapper-id; an accepted count starts a good
session, in which the bank a claimed WRITE selects lies in the image. -/
theorem initChecksBankCount : Obligations.InitChecksBankCount := by
  intro s n g f6 f7 h hid
  have hid' : mapperIdOf s.cfg.mapperIdUsesFlags7 f6 f7 = s.cfg.cnromMapperId := hid.symm
  refine ⟨fun hg => ?_, fun hg hpol hnpot => ?_, fun hg hpol => ⟨?_, fun b => ?_⟩⟩
  · subst hg
    exact h.execInit_eq (checkHeader_of_checkCounts_error rfl hid'
      (checkCounts_of_chrCount_eq_zero rfl))
  · have hmask : maskable g = false := beq_eq_false_iff_ne.mpr hnpot
    exact h.execInit_eq (checkHeader_of_checkCounts_error rfl hid'
      (checkCounts_of_not_maskable hg hpol hmask))
  · obtain ⟨_, r, -, rfl, hinv, ht⟩ := h.exists_execInit_initOk hid hg (by simp [hpol])
    refine ⟨_, ht, rfl, fun a d ha => ?_⟩
    obtain ⟨m, hm⟩ := bankCopy_isSome (bank_in_rom hinv (select_lt (d := d) hinv.banks))
    exact ⟨_, (execWrite_claimed_iff rfl ha).mpr ⟨m, hm, rfl⟩, rfl⟩
  · obtain ⟨-, -, hsubset⟩ := maskAndSelect
    exact hsubset .cnrom g b

/-- Settles O27: the checks pass, so INIT latches the header fields and copies graphics bank 0,
which is 8192 bytes of the image from `16 + N*16384` on. -/
theorem initStartsSession : Obligations.InitStartsSession := by
  intro s n g f6 f7 h hid hg hpow
  obtain ⟨m, r, hm, rfl, -, ht⟩ := h.exists_execInit_initOk hid hg hpow
  obtain ⟨hbank, -⟩ := bankCopy_eq_some_iff.mp hm
  rw [bankSize_eq] at hbank
  refine ⟨_, ht, rfl, rfl, rfl, rfl, rfl, chrBaseOf_toNat .cnrom n, rfl, rfl,
    fun i hi => ?_, fun i hi => ?_⟩
  · have hrom := List.getElem?_eq_getElem (l := s.imageChannel)
      (show 16 + n.toNat * 16384 + i < s.imageChannel.length by omega)
    refine ⟨_, hrom, (bankCopy_read hm i).trans ?_⟩
    rw [bankSize_eq, if_pos hi, hrom]
  · refine (bankCopy_read hm i).trans ?_
    rw [bankSize_eq, if_neg (Nat.not_lt_of_le hi)]

/-! Which bytes of the image the checks read. -/

theorem headerByte_congr {img img' : List Byte} {h : headerSize ≤ img.length}
    {h' : headerSize ≤ img'.length} {o : Fin 16} (ho : img[o.val]? = img'[o.val]?) :
    headerByte img h o = headerByte img' h' o := by
  have hlt : ∀ {n : Nat}, headerSize ≤ n → o.val < n := Nat.lt_of_lt_of_le o.isLt
  rw [List.getElem?_eq_getElem (hlt h), List.getElem?_eq_getElem (hlt h')] at ho
  exact Option.some.inj ho

/-- The checks read the length, the bytes of the header fields, and the magic where it is
checked (40 R103, R104). -/
theorem checkImage_congr {cfg : Config} {img img' : List Byte}
    (hlen : img.length = img'.length)
    (hmagic : cfg.checkMagic = true → img.take 4 = img'.take 4)
    (hfields : ∀ o ∈ [cfg.hdrPrgCountOff, cfg.hdrChrCountOff, cfg.hdrFlags6Off,
      cfg.hdrFlags7Off], img[o.val]? = img'[o.val]?) :
    checkImage cfg img = checkImage cfg img' := by
  by_cases h : headerSize ≤ img.length
  · have h' : headerSize ≤ img'.length := hlen ▸ h
    have hread : readHeader cfg img h = readHeader cfg img' h' := by
      have hbyte := fun o ho => headerByte_congr (h := h) (h' := h') (hfields o ho)
      simp only [List.forall_mem_cons] at hbyte
      obtain ⟨hn, hg, h6, h7, -⟩ := hbyte
      simp only [readHeader, hn, hg, h6, h7]
    rw [checkImage, dif_pos h, checkImage, dif_pos h', hread, hlen]
    by_cases hc : cfg.checkMagic = true
    · rw [hmagic hc]
    · simp only [hc, Bool.false_eq_true, false_and, if_false]
  · rw [checkImage_of_truncated (Nat.lt_of_not_le h), hlen,
      checkImage_of_truncated (hlen ▸ Nat.lt_of_not_le h)]

/-- INIT's status is the result of its checks. -/
theorem exists_execInit_status_of_checkImage_eq {s s' : State} (hs : s.session = .unloaded)
    (hs' : s'.session = .unloaded)
    (hc : checkImage s.cfg s.imageChannel = checkImage s'.cfg s'.imageChannel) :
    ∃ t t' st, exec .init s = .next t ∧ exec .init s' = .next t' ∧
      t.responses = ⟨.host, st⟩ :: s.responses ∧ t'.responses = ⟨.host, st⟩ :: s'.responses := by
  rcases hr : checkImage s.cfg s.imageChannel with e | ⟨v, hd⟩
  · exact ⟨_, _, e, execInit_of_checkImage_error hs hr,
      execInit_of_checkImage_error hs' (hc.symm.trans hr), rfl, rfl⟩
  · have hr' := hc.symm.trans hr
    obtain ⟨m, hm⟩ := checkImage_bank_zero hr
    obtain ⟨m', hm'⟩ := checkImage_bank_zero hr'
    exact ⟨_, _, _, execInit_of_checkImage_ok hs hr hm, execInit_of_checkImage_ok hs' hr' hm',
      rfl, rfl⟩

/-- Settles O31: the two images pass or fail the checks alike. -/
theorem initReadsOnlyHeaderFields : Obligations.InitReadsOnlyHeaderFields := by
  intro s s' hs hs' hcfg hlen _ hmagic hfields
  refine exists_execInit_status_of_checkImage_eq hs hs' ?_
  rw [← hcfg]
  exact checkImage_congr hlen hmagic hfields

/-- Settles O23: with `CHECK_MAGIC` the magic is compared before the header fields; without it
the checks read no byte before byte 4. -/
theorem initMagicCheck : Obligations.InitMagicCheck := by
  refine ⟨fun s hs hcheck hsize hmagic =>
    execInit_of_checkImage_error hs (checkImage_of_badMagic hsize hcheck hmagic),
    fun s m m' body hs hcheck hn hg h6 h7 hm hm' => ?_⟩
  have hbody : ∀ o : Fin 16, 4 ≤ o.val → (m ++ body)[o.val]? = (m' ++ body)[o.val]? :=
    fun o ho => by
      rw [List.getElem?_append_right (hm ▸ ho), List.getElem?_append_right (hm' ▸ ho), hm, hm']
  refine exists_execInit_status_of_checkImage_eq hs hs
    (checkImage_congr ?_ (fun h => absurd h (by simp [hcheck])) ?_)
  · rw [List.length_append, List.length_append, hm, hm']
  · simp [hbody, hn, hg, h6, h7]

/-! RESET. -/

/-- Settles O17: RESET takes the session away, and a READ without a session is `NoSession`. -/
theorem resetEndsSession : Obligations.ResetEndsSession := by
  refine ⟨by decide, rfl, fun s => ⟨execReset_eq s, fun t o ht => ?_⟩⟩
  cases (execReset_eq s).symm.trans ht
  rfl

end Sys2Proof.Machine
end

section
/-! PROOFS. The CPU port (spec/41_bus_write.md): the values of the CNROM variant, the comparator,
what an unclaimed and a claimed WRITE do, the write enables, and the copy loop. -/

namespace Sys2Proof.Machine

/-! The variant and its comparator. -/

/-- Settles O6: CNROM's interface is a record of constants, the defaults of 00 R6. -/
theorem cnromVariantValues : Obligations.CnromVariantValues :=
  fun _ _ _ _ => ⟨rfl, rfl, rfl, rfl, rfl, rfl, rfl⟩

/-- The comparator on naturals, which reduces no address modulo 2^16 (41 R126, R133). -/
theorem claims_iff {v : Variant} {n : Nat} :
    claims v n = true ↔ 0x7FFF < n ∧ n < 0x10000 := by
  rw [claims, Bool.and_eq_true, decide_eq_true_eq, decide_eq_true_eq]
  cases v
  exact Iff.rfl

/-- On a 16-bit address the comparator is bit 15 (30 R68). -/
theorem claims_addr_eq_getLsbD (v : Variant) (a : Addr) : claims v a.toNat = a.getLsbD 15 := by
  rw [Bool.eq_iff_iff, claims_addr_iff, ← BitVec.msb_eq_getLsbD_last, BitVec.msb_eq_decide,
    decide_eq_true_eq]

/-- A WRITE reads its address through the comparator alone. -/
theorem execWrite_congr_of_claims {a a' : Addr} (h : ∀ v, claims v a.toNat = claims v a'.toNat)
    (d : Byte) (s : State) : exec (.write a d) s = exec (.write a' d) s := by
  simp only [exec, execWrite, busDispatch_eq, h]

/-- Settles O32: the trigger range is the upper half of the 16-bit addresses. -/
theorem comparatorIsExact : Obligations.ComparatorIsExact := by
  refine ⟨fun v n => claims_iff, claims_addr_eq_getLsbD, fun a d => ?_, fun s a a' d h => ?_,
    fun v n hn => ?_⟩
  · have hd : d.getLsbD 23 = false := BitVec.getLsbD_of_ge _ _ (by decide)
    rw [encode, getLsbD_packWord _ _ _ (by decide), Instr.a16, Instr.d8, hd]
    simp
  · exact execWrite_congr_of_claims (fun v => by simp only [claims_addr_eq_getLsbD, h]) d s
  · exact Bool.eq_false_iff.mpr (mt claims_iff.mp (by omega))

/-! WRITE in a session. -/

/-- A WRITE in a session that the variant does not claim returns `Ignored` (41 R127). -/
theorem execWrite_of_not_claimed {s : State} {r : SessionRegs} {a : Addr}
    (hs : s.session = .loaded r) (ha : claims r.variant a.toNat = false) (d : Byte) :
    exec (.write a d) s = .next (respond .cpu (.ok .ignored) s) := by
  simp only [exec, execWrite, hs, busDispatch_eq, ha, Bool.false_eq_true, if_false, succeed]

/-- Settles O33: an address up to 0x7FFF lies below the trigger range. -/
theorem unclaimedWriteIsIgnored : Obligations.UnclaimedWriteIsIgnored := by
  intro s r a d hs ha
  have hc : ¬ claims r.variant a.toNat = true := mt claims_iff.mp (by omega)
  exact execWrite_of_not_claimed hs (Bool.eq_false_iff.mpr hc) d

/-- Settles O34: the selected bank lies in the image, so the WRITE copies it; neither the copy
nor the surface of a good session lists an offset from 8192 on. -/
theorem claimedWriteSwitchesBank : Obligations.ClaimedWriteSwitchesBank := by
  intro s r a d hs hr ha
  have hinv := (inv_iff_of_loaded hr).mp hs
  have hbank := bank_in_rom hinv (select_lt (v := r.variant) (d := d) hinv.banks)
  obtain ⟨m, hm⟩ := bankCopy_isSome hbank
  have hexec := (execWrite_claimed_iff hr ha).mpr ⟨m, hm, rfl⟩
  rw [hinv.bankOffset_eq, bankSize_eq] at hbank
  have hread := bankCopy_read hm
  have hold := bankCopy_read hinv.surface
  simp only [hinv.bankOffset_eq, bankSize_eq] at hread hold
  rw [select_eq] at hbank hexec hread
  refine ⟨m, hexec, fun i hi => ?_, fun x hx => ?_⟩
  · rw [hread, if_pos hi]
    exact ⟨_, List.getElem?_eq_getElem (by omega), List.getElem?_eq_getElem (by omega)⟩
  · rw [hread, hold, if_neg (by omega), if_neg (by omega)]

/-! The write enables. -/

theorem weSel_of_loaded {s : State} {r : SessionRegs} (hs : s.session = .loaded r) (a : Addr) :
    weSel s a = claims r.variant a.toNat := by
  simp [weSel, hs]

/-- `we_sel` is `LOADED and claimed` (41 R129). -/
theorem weSel_eq (s : State) (a : Addr) :
    weSel s a = (s.isLoaded && decide (0x8000 ≤ a.toNat)) := by
  rcases hs : s.session with _ | r
  · simp [weSel, hs, isLoaded_of_unloaded hs]
  · rw [weSel_of_loaded hs, isLoaded_of_loaded hs, Bool.true_and, Bool.eq_iff_iff,
      claims_addr_iff, decide_eq_true_eq]

/-- Settles O38: of the effects that lead from LOADED to LOADED, only the switch writes `sel` and
the surface, and its WRITE is claimed. -/
theorem writeEnablesGateTheSwitch : Obligations.WriteEnablesGateTheSwitch := by
  refine ⟨fun s a => ⟨weSel_eq s a, rfl⟩, fun i s t r q h hr hq => ?_⟩
  cases effect_of_exec h with
  | quiet _ =>
    cases hr.symm.trans hq
    simp
  | reset => cases hq
  | init hs => cases hs.symm.trans hr
  | switch hs ha =>
    cases hs.symm.trans hr
    cases hq
    have hwe := (weSel_of_loaded hs _).trans ha
    exact ⟨rfl, fun _ => ⟨_, _, rfl, hwe, hwe⟩⟩
  | query hs =>
    cases hs.symm.trans hr
    cases hq
    simp

/-! The copy loop. -/

/-- A write at or below the first address of a canonical memory makes or replaces its head. -/
theorem Memory.write_of_risingFrom {base : Nat} {m : Memory} (hm : Memory.risingFrom base m = true)
    (v : Byte) :
    ∃ m', m.write base v = (base, v) :: m' ∧ Memory.risingFrom (base + 1) m' = true ∧ m' ⊆ m := by
  cases m with
  | nil => exact ⟨[], rfl, rfl, List.Subset.refl _⟩
  | cons c m =>
    obtain ⟨a, b⟩ := c
    obtain ⟨hle, hrest⟩ : base ≤ a ∧ Memory.risingFrom (a + 1) m = true := by
      simpa [Memory.risingFrom] using hm
    obtain rfl | hlt := hle.eq_or_lt
    · exact ⟨m, by simp [Memory.write], hrest, List.subset_cons_self _ _⟩
    · exact ⟨(a, b) :: m, by simp [Memory.write, hlt], by simp [Memory.risingFrom, hrest, hlt],
        List.Subset.refl _⟩

/-- The loop passes over what is listed below its base. -/
theorem Memory.writeLoop_cons {a base : Nat} {b : Byte} (h : a < base) (m : Memory)
    (bs : List Byte) :
    Memory.writeLoop ((a, b) :: m) base bs = (a, b) :: Memory.writeLoop m base bs := by
  induction bs generalizing m base with
  | nil => rfl
  | cons v bs ih =>
    have hwrite : Memory.write ((a, b) :: m) base v = (a, b) :: m.write base v := by
      rw [Memory.write, if_neg (by omega), if_neg (by omega)]
    rw [Memory.writeLoop, hwrite, ih (by omega), Memory.writeLoop]

/-- The loop overwrites a canonical memory that lists nothing outside the addresses copied to. -/
theorem Memory.writeLoop_eq_ofBytes {base : Nat} {m : Memory} {bs : List Byte}
    (hm : Memory.risingFrom base m = true) (hbelow : ∀ c ∈ m, c.1 < base + bs.length) :
    m.writeLoop base bs = Memory.ofBytes base bs := by
  induction bs generalizing m base with
  | nil =>
    cases m with
    | nil => rfl
    | cons c m =>
      have hle : base ≤ c.1 := by
        simp only [Memory.risingFrom, Bool.and_eq_true, decide_eq_true_eq] at hm
        exact hm.1
      have hlt : c.1 < base := hbelow c List.mem_cons_self
      omega
  | cons b bs ih =>
    obtain ⟨m', hwrite, hrising, hsub⟩ := Memory.write_of_risingFrom hm b
    have htail : ∀ c ∈ m', c.1 < base + 1 + bs.length := fun c hc => by
      have := hbelow c (hsub hc)
      rw [List.length_cons] at this
      omega
    calc m.writeLoop base (b :: bs)
        = Memory.writeLoop ((base, b) :: m') (base + 1) bs := by rw [Memory.writeLoop, hwrite]
      _ = (base, b) :: Memory.writeLoop m' (base + 1) bs := Memory.writeLoop_cons (by omega) m' bs
      _ = (base, b) :: Memory.ofBytes (base + 1) bs := by rw [ih hrising htail]

/-- Settles O39: the loop from address 0 overwrites all that the memory lists. -/
theorem copyLoopEqualsCopy : Obligations.CopyLoopEqualsCopy := by
  intro m bytes hm hbelow
  refine Memory.writeLoop_eq_ofBytes hm fun c hc => ?_
  simpa using List.all_eq_true.mp hbelow c hc

end Sys2Proof.Machine
end

section
/-! PROOFS. The display port (spec/42_surface_read.md): READ below and above the surface size, the
runs after a READ that is out of range, and DIRTYQ. -/

namespace Sys2Proof.Machine

/-! READ in a session. -/

/-- A READ from the surface size on (42 R151). -/
theorem execRead_of_outOfRange {s : State} {r : SessionRegs} {off : Addr}
    (hs : s.session = .loaded r) (ho : surfaceSize ≤ off.toNat) :
    exec (.read off) s = .next (respond .display (.outOfRange off.toNat surfaceSize) s) := by
  simp only [exec, execRead, hs, if_pos ho, raise]

/-- A READ below the surface size of a byte that has a value (42 R152). -/
theorem execRead_of_surf_read {s : State} {r : SessionRegs} {off : Addr} {b : Byte}
    (hs : s.session = .loaded r) (ho : off.toNat < surfaceSize)
    (hb : Memory.read r.surf off.toNat = some b) :
    exec (.read off) s = .next (respond .display (.ok (.data b)) s) := by
  simp only [exec, execRead, hs, if_neg (Nat.not_le_of_lt ho), hb, succeed]

/-- Settles O40: the surface has 8192 bytes, so the READ is out of range. -/
theorem readOutOfRange : Obligations.ReadOutOfRange :=
  fun _ _ _ => execRead_of_outOfRange

/-- Settles O41: the surface of a good session holds the byte of the selected bank (10 R33), and
READ returns what the surface holds. -/
theorem readReturnsSurfaceByte : Obligations.ReadReturnsSurfaceByte := by
  intro s r o hs hr ho
  obtain ⟨hsurf, -, -⟩ := surfaceIsTheSelectedBank s r hs hr
  obtain ⟨b, hb, hrom⟩ := hsurf o.toNat ho
  exact ⟨b, hb, hrom, execRead_of_surf_read hr ho hb⟩

/-! No run reads the output record. -/

/-- A run commutes with putting an older record behind the state's own. -/
theorem run_appendRecord (rs : List Response) (tr : List Byte) (k : Nat) (s : State) :
    Host.Core.run Sys2Proof.core k (s.appendRecord rs tr) =
      mapNext (State.appendRecord rs tr) (Host.Core.run Sys2Proof.core k s) := by
  induction k generalizing s with
  | zero => rfl
  | succ k ih =>
    have hstep : Sys2Proof.core.step (s.appendRecord rs tr) =
        mapNext (State.appendRecord rs tr) (Sys2Proof.core.step s) := step_appendRecord rs tr s
    rw [Host.Core.run.eq_2 Sys2Proof.core (s.appendRecord rs tr) k,
      Host.Core.run.eq_2 Sys2Proof.core s k, hstep]
    cases Sys2Proof.core.step s with
    | next u => exact ih u
    | fault f => rfl
    | refused f => rfl

/-- A run from one record is a run from every other, and adds the same to both. -/
theorem run_next_of_record {k : Nat} {s u : State} (rs : List Response) (tr : List Byte)
    (h : Host.Core.run Sys2Proof.core k s = .next u) :
    ∃ v : State, u = v.appendRecord s.responses s.trace ∧
      Host.Core.run Sys2Proof.core k { s with responses := rs, trace := tr } =
        .next (v.appendRecord rs tr) := by
  have hs : Host.Core.run Sys2Proof.core k s = mapNext (State.appendRecord s.responses s.trace)
      (Host.Core.run Sys2Proof.core k s.clearRecord) := run_appendRecord _ _ k s.clearRecord
  obtain ⟨v, hv, rfl⟩ := mapNext_eq_next_iff.mp (hs.symm.trans h)
  exact ⟨v, rfl, (run_appendRecord rs tr k s.clearRecord).trans (by rw [hv]; rfl)⟩

/-- Settles O42: the READ changes the output record alone, which no run reads. -/
theorem outOfRangeReadIsRecoverable : Obligations.OutOfRangeReadIsRecoverable := by
  intro k s t u r o hs ho hread hrun
  cases (execRead_of_outOfRange hs ho).symm.trans hread
  obtain ⟨v, rfl, hrun'⟩ := run_next_of_record
    (respond .display (.outOfRange o.toNat surfaceSize) s).responses s.trace hrun
  exact ⟨rfl, _, v.responses, hrun', rfl, rfl, rfl, rfl, rfl, rfl, rfl⟩

/-! DIRTYQ. -/

theorem execDirtyq_of_not_hasDirty {s : State} (hd : s.cfg.hasDirty = false) :
    exec .dirtyq s = .next (respond .display (.illegalCommand dirtyqWord) s) := by
  simp only [exec, execDirtyq, hd, Bool.false_eq_true, if_false, execIllegal, raise]

theorem execDirtyq_of_unloaded {s : State} (hd : s.cfg.hasDirty = true)
    (hs : s.session = .unloaded) :
    exec .dirtyq s = .next (respond .display .noSession s) := by
  simp only [exec, execDirtyq, hd, hs, if_true, raise]

/-- DIRTYQ where `dirty` has a value returns and clears it (42 R156). -/
theorem execDirtyq_of_dirty {s : State} {r : SessionRegs} {v : Bool}
    (hd : s.cfg.hasDirty = true) (hs : s.session = .loaded r) (hv : r.dirty = some v) :
    exec .dirtyq s = .next (respond .display (.ok (.bit v))
      (s.setSession (.loaded { r with dirty := some false }))) := by
  simp only [exec, execDirtyq, hd, hs, hv, if_true, succeed]

/-- Settles O43: in a good session `dirty` has a value where the feature exists (10 R30). -/
theorem dirtyqReadsAndClears : Obligations.DirtyqReadsAndClears := by
  refine ⟨by decide, rfl, fun _ => execDirtyq_of_not_hasDirty, fun _ => execDirtyq_of_unloaded,
    fun s r hs hd hr => ?_⟩
  obtain ⟨v, hv⟩ := Option.isSome_iff_exists.mp
    (((inv_iff_of_loaded hr).mp hs).dirtyExists.trans hd)
  exact ⟨v, hv, execDirtyq_of_dirty hd hr hv⟩

/-- Settles O44: the record invariant says what `dirty` holds, and DIRTYQ returns it. -/
theorem dirtyqReportsChangeSinceQuery : Obligations.DirtyqReportsChangeSinceQuery :=
  fun _ r hs hr hd => ⟨_, execDirtyq_of_dirty hd hr (hs.changed r hr hd), rfl⟩

end Sys2Proof.Machine
end

section
/-! PROOFS. The statuses (spec/60_exceptions.md): their codes, which command returns which, what an
error leaves unchanged, the one trace event, the record of the protocol statuses; then the port
table, and that every command from its own port is answered. -/

namespace Sys2Proof.Machine

/-! Statuses without a session, and in one. -/

theorem execWrite_of_unloaded {s : State} (hs : s.session = .unloaded) (a : Addr) (d : Byte) :
    exec (.write a d) s = .next (respond .cpu .noSession s) := by
  simp only [exec, execWrite, hs, raise]

theorem execRead_of_unloaded {s : State} (hs : s.session = .unloaded) (off : Addr) :
    exec (.read off) s = .next (respond .display .noSession s) := by
  simp only [exec, execRead, hs, raise]

/-- Settles O20: each of the four commands looks at the lifecycle before anything else but
`HAS_DIRTY`. -/
theorem lifecycleStatuses : Obligations.LifecycleStatuses :=
  ⟨fun _ a d hs => execWrite_of_unloaded hs a d, fun _ o hs => execRead_of_unloaded hs o,
    fun _ hs hd => execDirtyq_of_unloaded hd hs, fun _ _ => execInit_of_loaded⟩

/-! The codes, and which command returns which. -/

/-- Settles O7: the columns of 60 R180. -/
theorem statusAndReasonCodes : Obligations.StatusAndReasonCodes :=
  fun _ _ _ _ _ _ _ _ _ => ⟨rfl, rfl, rfl, rfl, rfl, rfl, rfl, rfl, rfl, rfl, rfl, rfl, rfl⟩

/-- INIT may return every fatal status: `MalformedImage` and `UnsupportedConfiguration`. -/
theorem Status.code_mem_init_of_fatal {st : Status} (h : st.kind = .fatal) (hasDirty : Bool) :
    st.code ∈ Instr.init.statusCodes hasDirty := by
  cases st with
  | malformedImage _ => simp [Status.code, Instr.statusCodes]
  | unsupportedConfiguration _ => simp [Status.code, Instr.statusCodes]
  | ok _ | outOfRange _ _ | noSession | sessionActive | illegalCommand _ => cases h

/-- Settles O46: the answers of each command one by one; INIT's checks return fatal statuses
only. -/
theorem statusesByCommand : Obligations.StatusesByCommand := by
  intro i s t h
  cases i with
  | reset =>
    cases (execReset_eq s).symm.trans h
    exact ⟨_, rfl, by simp [Status.code, Instr.statusCodes]⟩
  | init =>
    obtain ⟨_, -, rfl⟩ | ⟨_, -, hc, rfl⟩ | ⟨_, _, _, -, -, -, rfl⟩ := execInit_next_cases h
    · exact ⟨_, rfl, by simp [Status.code, Instr.statusCodes]⟩
    · exact ⟨_, rfl, Status.code_mem_init_of_fatal (checkImage_error_kind hc) _⟩
    · exact ⟨_, rfl, by simp [Status.code, Instr.statusCodes]⟩
  | write a d =>
    obtain ⟨-, rfl⟩ | ⟨_, -, -, rfl⟩ | ⟨_, _, -, -, -, rfl⟩ := execWrite_next_cases h <;>
      exact ⟨_, rfl, by simp [Status.code, Instr.statusCodes]⟩
  | read off =>
    obtain ⟨-, rfl⟩ | ⟨_, -, -, rfl⟩ | ⟨_, _, -, -, -, rfl⟩ := execRead_next_cases h <;>
      exact ⟨_, rfl, by simp [Status.code, Instr.statusCodes]⟩
  | dirtyq =>
    obtain ⟨hd, rfl⟩ | ⟨hd, -, rfl⟩ | ⟨_, _, hd, -, -, rfl⟩ := execDirtyq_next_cases h <;>
      exact ⟨_, rfl, by simp [hd, Status.code, Instr.statusCodes]⟩

/-! What an error leaves, and what emits a trace event. -/

/-- Settles O45: of the effects, only a quiet answer can be an error, and it adds its response
alone. -/
theorem errorsArePrecise : Obligations.ErrorsArePrecise := by
  intro i s t h
  obtain ⟨st, hst⟩ := exec_responses h
  refine ⟨st, hst, fun herr => ?_⟩
  cases effect_of_exec h with
  | quiet _ => rw [← hst]; rfl
  | reset => cases hst; cases herr
  | init => cases hst; cases herr
  | switch => cases hst; cases herr
  | query => cases hst; cases herr

/-- An effect that returns `Switched` is the switch of a WRITE, with its event (60 R203). -/
theorem Effect.trace_of_switched {s t : State} {d : Except IllegalReason Instr} {p : Port}
    {idx : Byte} (he : Effect s d t)
    (hresp : t.responses = ⟨p, .ok (.switched idx)⟩ :: s.responses) :
    (∃ a x, d = .ok (.write a x)) ∧ t.trace = idx :: s.trace := by
  cases he with
  | quiet hst => cases hresp; cases hst
  | reset => cases hresp
  | init => cases hresp
  | switch => cases hresp; exact ⟨⟨_, _, rfl⟩, rfl⟩
  | query => cases hresp

/-- An effect that does not return `Switched` emits nothing. -/
theorem Effect.trace_of_not_switched {i : Instr} {s t : State} (he : Effect s (.ok i) t)
    (hresp : ∀ idx, t.responses ≠ ⟨i.port, .ok (.switched idx)⟩ :: s.responses) :
    t.trace = s.trace := by
  cases he with
  | quiet _ => rfl
  | reset => rfl
  | init => rfl
  | switch => exact absurd rfl (hresp _)
  | query => rfl

/-- A command does the same behind any other trace. -/
theorem exec_next_of_trace {i : Instr} {s t : State} (tr : List Byte) (h : exec i s = .next t) :
    ∃ u, exec i { s with trace := tr } = .next u ∧ { u with trace := t.trace } = t := by
  have hs : exec i s = mapNext (State.appendRecord s.responses s.trace) (exec i s.clearRecord) :=
    exec_appendRecord s.responses s.trace s.clearRecord i
  obtain ⟨v, hv, rfl⟩ := mapNext_eq_next_iff.mp (hs.symm.trans h)
  exact ⟨v.appendRecord s.responses tr,
    (exec_appendRecord s.responses tr s.clearRecord i).trans (by rw [hv]; rfl), rfl⟩

/-- Settles O47: of the effects only the switch emits an event, and no command reads the
trace. -/
theorem onlySwitchedEmitsTrace : Obligations.OnlySwitchedEmitsTrace := by
  intro i s t h
  have he := effect_of_exec h
  refine ⟨fun idx hresp => ?_, he.trace_of_not_switched, fun tr => exec_next_of_trace tr h⟩
  obtain ⟨⟨a, d, hi⟩, htrace⟩ := he.trace_of_switched hresp
  exact ⟨⟨a, d, Except.ok.inj hi⟩, htrace⟩

/-! The record of protocol statuses. -/

theorem Status.isProtocolFault_iff {st : Status} :
    st.isProtocolFault = true ↔
      st = .noSession ∨ st = .sessionActive ∨ ∃ w, st = .illegalCommand w := by
  cases st <;> simp [Status.isProtocolFault, Status.kind]

/-- One more response adds its own record (93 I7, I8). -/
theorem recordsFault_of_responses {s t : State} {x : Response}
    (h : t.responses = x :: s.responses) :
    t.recordsFault = (s.recordsFault || x.status.isProtocolFault) := by
  rw [State.recordsFault, h, List.any_cons, Bool.or_comm, State.recordsFault]

/-- Settles O54: a step that takes a command adds one response, and an idle step none. -/
theorem recordedFaultsStay : Obligations.RecordedFaultsStay := by
  refine ⟨fun _ => Status.isProtocolFault_iff, fun _ _ _ => ⟨rfl, rfl⟩, rfl,
    fun s t r rest hp h => ?_, fun s t hp h => ?_⟩
  · obtain ⟨-, -, st, hst⟩ := oneStatusPerStep s t r rest hp h
    exact ⟨st, hst, recordsFault_of_responses hst⟩
  · cases (step_of_no_pending hp).symm.trans h
    rfl

/-! The ports. -/

/-- A legal command from a port that may not issue it is refused (60 R195, 93 I9). -/
theorem serve_of_wrongPort {r : Request} {s : State} {i : Instr}
    (hd : decode s.cfg.hasDirty r.word = .ok i) (hp : i.port ≠ r.port) :
    serve r s = .refused (.wrongPort r.port i) := by
  simp only [serve, hd, if_neg hp]

/-- Settles O9: the port is checked before the command's meaning. -/
theorem portTableIsEnforced : Obligations.PortTableIsEnforced := by
  refine ⟨fun _ _ _ => ⟨rfl, rfl, rfl, rfl, rfl⟩, fun s r rest i hp hd hport => ?_⟩
  rw [step_of_pending hp]
  exact serve_of_wrongPort (by rwa [accept_cfg]) hport

/-- A table word of 32 bits is a command word, decoded with the default `HAS_DIRTY`. -/
theorem decodeTableWord_32_eq_some_iff {w : Nat} {i : Instr} :
    decodeTableWord 32 w = some i ↔
      decode defaultConfig.hasDirty (BitVec.ofNat 32 (w % 2 ^ 32)) = .ok i := by
  rw [decodeTableWord, if_pos (Nat.le_refl 32)]
  split <;> simp_all

theorem portOfWord_of_decode {hasDirty : Bool} {w : Word} {i : Instr}
    (h : decode hasDirty w = .ok i) : portOfWord hasDirty w = i.port := by
  simp only [portOfWord, h]

/-- Taking a command that was presented with the channel's own image gives back the state before
it was presented. -/
theorem accept_requestOn (s : State) (p : Port) (w : Word) (reqs : List Request) :
    State.accept { s with pending := reqs } (requestOn p w s.imageChannel) s.pending = s := by
  cases p <;> rfl

/-- Settles O10: the word is presented on its command's port, so the step serves the command in
the state before. -/
theorem presentedWordRunsNext : Obligations.PresentedWordRunsNext := by
  intro s w i hcfg hw
  have hd := decodeTableWord_32_eq_some_iff.mp hw
  rw [← hcfg] at hd
  have hp : (s.withFetchWord 32 w).pending =
      requestOn i.port (BitVec.ofNat 32 (w % 2 ^ 32)) s.imageChannel :: s.pending := by
    rw [← portOfWord_of_decode hd]
    rfl
  have haccept : (s.withFetchWord 32 w).accept
      (requestOn i.port (BitVec.ofNat 32 (w % 2 ^ 32)) s.imageChannel) s.pending = s :=
    accept_requestOn s _ _ _
  rw [step_of_pending hp, haccept]
  exact serve_of_decode (by rwa [requestOn_word]) (requestOn_port _ _ _).symm

/-- Settles O16: an illegal word is answered from any port, a command from its own port by its
meaning, which answers in every good state. -/
theorem goodStateAnswersEveryCommand : Obligations.GoodStateAnswersEveryCommand := by
  intro s r rest hs hp hport
  rw [step_of_pending hp]
  obtain ⟨_, -, hserve⟩ | ⟨i, hd, hne, -⟩ | ⟨i, -, -, hserve⟩ := serve_cases r (s.accept r rest)
  · exact ⟨_, hserve⟩
  · rw [accept_cfg] at hd
    exact absurd (hport i hd) hne
  · obtain ⟨t, ht⟩ := (inv_accept_iff.mpr hs).exists_exec_next i
    exact ⟨t, hserve.trans ht⟩

end Sys2Proof.Machine
end

section
/-! PROOFS. Reset and hazards (spec/70_reset_and_hazards.md): the power-on state, and READs
bracketed by a `dirty` that is clear. -/

namespace Sys2Proof.Machine

/-! Power-on and RESET. -/

/-- While UNLOADED no byte of the surface holds a value (10 R29). -/
theorem read_surf_of_unloaded {s : State} (h : s.session = .unloaded) (a : Nat) :
    Memory.read s.surf a = none := by
  rw [surf_of_unloaded h, Memory.read]

/-- Settles O18: the power-on state and the state RESET leaves are UNLOADED. -/
theorem powerOnState : Obligations.PowerOnState := by
  refine ⟨rfl, read_surf_of_unloaded rfl, fun s t h => ?_⟩
  cases (execReset_eq s).symm.trans h
  exact ⟨rfl, read_surf_of_unloaded rfl⟩

/-- An UNLOADED state that has returned nothing agrees with its record. -/
theorem recordInv_of_unloaded {s : State} (hs : s.session = .unloaded) (hresp : s.responses = [])
    (htrace : s.trace = []) : s.RecordInv where
  traced := by rw [htrace, hresp, List.filterMap_nil]
  opened := by rw [isLoaded_of_unloaded hs, hresp, sessionOpen]
  selected := by simp [hs]
  changed := by simp [hs]

/-- Settles O19: both invariants ask most of a session, and at power-on there is none. -/
theorem resetMeetsInvariants : Obligations.ResetMeetsInvariants :=
  ⟨inv_of_unloaded rfl, recordInv_of_unloaded rfl rfl rfl⟩

/-! Bracketed READs. The argument goes back from the end of the run: only a query clears `dirty`,
so without one a state with `dirty` clear comes from a state with the same session. -/

/-- `dirty` exists and is clear. -/
def State.DirtyClear (s : State) : Prop := ∃ r, s.session = .loaded r ∧ r.dirty = some false

/-- An effect other than a query that leaves `dirty` clear leaves the session: INIT and a switch
set `dirty`, and RESET ends the session. -/
theorem Effect.session_eq_of_dirtyClear {s t : State} {d : Except IllegalReason Instr}
    {new : List Response} (he : Effect s d t) (hdirty : s.cfg.hasDirty = true)
    (hclear : t.DirtyClear) (hresp : t.responses = new ++ s.responses)
    (hnew : ∀ x ∈ new, x.answersQuery = false) : t.session = s.session := by
  obtain ⟨q, hq, hfalse⟩ := hclear
  cases he with
  | quiet _ => rfl
  | reset => cases hq
  | init =>
    cases hq
    simp [latchSession, dirtySet, hdirty] at hfalse
  | switch =>
    cases hq
    simp [switchSession, hdirty] at hfalse
  | @query _ v =>
    obtain rfl : [⟨.display, .ok (.bit v)⟩] = new := List.append_cancel_right hresp
    cases hnew _ (List.mem_singleton_self _)

/-- A step that answers no query and leaves `dirty` clear leaves the session. -/
theorem step_session_eq_of_dirtyClear {s t : State} {new : List Response} (h : step s = .next t)
    (hdirty : s.cfg.hasDirty = true) (hclear : t.DirtyClear)
    (hresp : t.responses = new ++ s.responses) (hnew : ∀ x ∈ new, x.answersQuery = false) :
    t.session = s.session := by
  obtain rfl | ⟨r, rest, _, -, he⟩ := step_next_cases h
  · rfl
  · rw [← accept_session s rest r]
    exact he.session_eq_of_dirtyClear (by rwa [accept_cfg]) hclear
      (by rwa [accept_responses]) hnew

/-- A step leaves the parameters and keeps the older responses. -/
theorem step_next_frame {s t : State} (h : step s = .next t) :
    t.cfg = s.cfg ∧ ∃ new, t.responses = new ++ s.responses := by
  cases hp : s.pending with
  | nil =>
    cases (step_of_no_pending hp).symm.trans h
    exact ⟨rfl, [], rfl⟩
  | cons r rest =>
    obtain ⟨-, hcfg, st, hst⟩ := oneStatusPerStep s t r rest hp h
    exact ⟨hcfg, [⟨r.port, st⟩], hst⟩

/-- A run keeps the older responses. -/
theorem run_next_responses {k : Nat} {s t : State}
    (h : Host.Core.run Sys2Proof.core k s = .next t) :
    ∃ new, t.responses = new ++ s.responses := by
  obtain ⟨v, rfl, -⟩ := run_next_of_record [] [] h
  exact ⟨v.responses, rfl⟩

/-- Every state on a run that answers no query and ends with `dirty` clear has the session of the
end. -/
theorem run_session_eq_of_dirtyClear {k : Nat} {s t : State} {new : List Response}
    (hrun : Host.Core.run Sys2Proof.core k s = .next t) (hdirty : s.cfg.hasDirty = true)
    (hclear : t.DirtyClear) (hresp : t.responses = new ++ s.responses)
    (hnew : ∀ x ∈ new, x.answersQuery = false) {j : Nat} (hj : j ≤ k) :
    ∃ u : State, Host.Core.run Sys2Proof.core j s = .next u ∧ u.session = t.session := by
  induction k generalizing s new j with
  | zero =>
    cases hrun
    obtain rfl : j = 0 := Nat.le_zero.mp hj
    exact ⟨t, rfl, rfl⟩
  | succ k ih =>
    obtain ⟨u, hstep, hrest⟩ := step_of_run_succ hrun
    obtain ⟨hcfg, first, hfirst⟩ := step_next_frame hstep
    obtain ⟨later, hlater⟩ := run_next_responses hrest
    obtain rfl : new = later ++ first := by
      rw [hlater, hfirst, ← List.append_assoc] at hresp
      exact (List.append_cancel_right hresp).symm
    obtain ⟨hnewLater, hnewFirst⟩ := List.forall_mem_append.mp hnew
    have htail : ∀ {i : Nat}, i ≤ k →
        ∃ w : State, Host.Core.run Sys2Proof.core i u = .next w ∧ w.session = t.session :=
      ih hrest (by rwa [hcfg]) hlater hnewLater
    cases j with
    | zero =>
      obtain ⟨_, hw, hut⟩ := htail (Nat.zero_le k)
      cases hw
      have huclear : u.DirtyClear := by rwa [State.DirtyClear, hut]
      have hus : u.session = s.session :=
        step_session_eq_of_dirtyClear hstep hdirty huclear hfirst hnewFirst
      exact ⟨s, rfl, hus.symm.trans hut⟩
    | succ j =>
      rw [run_succ_of_next hstep]
      exact htail (Nat.le_of_succ_le_succ hj)

theorem surf_eq_of_session_eq {s u : State} (h : u.session = s.session) : u.surf = s.surf := by
  rw [State.surf, State.surf, h]

/-- Settles O56: every state on the run has the session of its end, the first state too, and the
surface is the session's. That `dirty` is clear at the end is enough. -/
theorem bracketedReadsSeeOneBank : Obligations.BracketedReadsSeeOneBank := by
  intro k s t r q new hdirty _ _ hrun hq hfalse hresp hnew j hj
  have hend : ∀ {i : Nat}, i ≤ k →
      ∃ u : State, Host.Core.run Sys2Proof.core i s = .next u ∧ u.session = t.session :=
    run_session_eq_of_dirtyClear hrun hdirty ⟨q, hq, hfalse⟩ hresp hnew
  obtain ⟨_, hzero, hst⟩ := hend (Nat.zero_le k)
  cases hzero
  obtain ⟨u, hu, hut⟩ := hend hj
  exact ⟨u, hu, surf_eq_of_session_eq (hut.trans hst.symm)⟩

end Sys2Proof.Machine
end
